-- ==== Sys2Proof/Word.lean ====
section
/-! DEFINITION. The word types of EMUCHIP8-CORE (spec/00_scope.md R5, R6; spec/10_state.md R10, R13, R14).
Every value is unsigned: the machine has no signed operation and no sign extension (R5). -/

namespace Sys2Proof

/-- A memory cell, a general register, a timer: 8 bits (R10, R18, R40). -/
abbrev Byte := BitVec 8

/-- An instruction word, `I`, `pc`, a stack entry: 16 bits (R13, R14, R16, R60). -/
abbrev Word := BitVec 16

/-- The 4-bit immediate `N` of the instruction word (R61). -/
abbrev Nibble := BitVec 4

/-- The 12-bit immediate `NNN` of the instruction word (R61). -/
abbrev Addr := BitVec 12

/-- A register index `X` or `Y`: every value 0 to 15 names a real register (R10). -/
abbrev Reg := Fin 16

/-- `VF`, register 15 in its role of flags register (R11). -/
abbrev regF : Reg := 15

/-- A one-bit flag written into an 8-bit register: 1 or 0 (R11). -/
def flagByte (b : Bool) : Byte := if b then 1 else 0

@[simp] theorem flagByte_true : flagByte true = 1 := rfl
@[simp] theorem flagByte_false : flagByte false = 0 := rfl

end Sys2Proof
end

