-- ==== Sys2Proof/Config.lean ====
section
/-! DEFINITION. The fixed sizes and the open parameters of the block (spec/00_scope.md R3).
`rand` is a free value: a constant with no body, so that no proof can see what a draw is (R33).
`FONT` is the other open parameter (R44): the font a machine has stands in `State.font`, where every claim about a state quantifies over it; only
the spec's DEFAULT table stands here. -/

namespace Sys2Proof.Config

/-- MEM_SIZE, 4096 bytes, addresses 0x000 to 0xFFF (R3, R40). -/
abbrev memSize : Nat := 4096

/-- PROG_BASE, the load address and the entry point (R3, R42). -/
abbrev progBase : Nat := 0x200

/-- MAX_ROM = 4096 - 0x200 (R3, R224). -/
abbrev maxRom : Nat := 3584

/-- FONT_BASE (R3, R43). -/
abbrev fontBase : Nat := 0x050

/-- The font table's length: 16 glyphs of 5 bytes (R43). -/
abbrev fontSize : Nat := 80

/-- FB_W, the framebuffer's columns (R3, R20). -/
abbrev fbWidth : Nat := 64

/-- FB_H, the framebuffer's rows (R3, R20). -/
abbrev fbHeight : Nat := 32

/-- The input port `rand` (R33, decision D18): the byte that the n-th executed `CXNN` draws. A FREE VALUE: it has no body, so
a claim about a program that draws holds for every sequence of draws. Log entry 2. -/
opaque rand : Nat → Byte

/-- The default glyphs of digits 0 to 7 (R44's table). -/
def glyphsLow : List Byte :=
  [0xF0, 0x90, 0x90, 0x90, 0xF0] ++ [0x20, 0x60, 0x20, 0x20, 0x70] ++ [0xF0, 0x10, 0xF0, 0x80, 0xF0] ++
  [0xF0, 0x10, 0xF0, 0x10, 0xF0] ++ [0x90, 0x90, 0xF0, 0x10, 0x10] ++ [0xF0, 0x80, 0xF0, 0x10, 0xF0] ++
  [0xF0, 0x80, 0xF0, 0x90, 0xF0] ++ [0xF0, 0x10, 0x20, 0x40, 0x40]

/-- The default glyphs of digits 8 to F (R44's table). -/
def glyphsHigh : List Byte :=
  [0xF0, 0x90, 0xF0, 0x90, 0xF0] ++ [0xF0, 0x90, 0xF0, 0x10, 0xF0] ++ [0xF0, 0x90, 0xF0, 0x90, 0x90] ++
  [0xE0, 0x90, 0xE0, 0x90, 0xE0] ++ [0xF0, 0x80, 0x80, 0x80, 0xF0] ++ [0xE0, 0x90, 0x90, 0x90, 0xE0] ++
  [0xF0, 0x80, 0xF0, 0x80, 0xF0] ++ [0xF0, 0x80, 0xF0, 0x80, 0x80]

/-- The default value of the parameter `FONT` (R44, decision D19). PRESUMED: the spec itself marks the 80 bytes as general
knowledge, so `State.reset` uses them and no claim may rest on them. Log entry 1. -/
def defaultFont : Vector Byte fontSize := ⟨(glyphsLow ++ glyphsHigh).toArray, rfl⟩

end Sys2Proof.Config
end

