-- ==== Sys2Proof/Syntax.lean ====
section
/-! DEFINITION. The instruction set: one constructor for each of the 34 rows of spec/opcode_table.json (spec/30_encoding.md R65).
Operands carry the field's own width (R61), so a term with an operand outside its field cannot be written. -/

namespace Sys2Proof

/-- The 34 instructions, in the order of the table of R65; each constructor names its row's pattern. -/
inductive Instr where
  /-- `00E0`: clear the display (R160). -/
  | cls
  /-- `00EE`: return from subroutine (R104). -/
  | ret
  /-- `1NNN`: jump (R101). -/
  | jp (nnn : Addr)
  /-- `2NNN`: call subroutine (R102). -/
  | call (nnn : Addr)
  /-- `3XNN`: skip if `VX = NN` (R105). -/
  | seImm (x : Reg) (nn : Byte)
  /-- `4XNN`: skip if `VX ≠ NN` (R106). -/
  | sneImm (x : Reg) (nn : Byte)
  /-- `5XY0`: skip if `VX = VY` (R107). -/
  | seReg (x y : Reg)
  /-- `6XNN`: load immediate (R121). -/
  | ldImm (x : Reg) (nn : Byte)
  /-- `7XNN`: add immediate, no flag (R122). -/
  | addImm (x : Reg) (nn : Byte)
  /-- `8XY0`: copy register (R123). -/
  | ldReg (x y : Reg)
  /-- `8XY1`: bitwise or (R124). -/
  | or (x y : Reg)
  /-- `8XY2`: bitwise and (R125). -/
  | and (x y : Reg)
  /-- `8XY3`: bitwise exclusive or (R126). -/
  | xor (x y : Reg)
  /-- `8XY4`: add with carry out (R127). -/
  | addReg (x y : Reg)
  /-- `8XY5`: `VX - VY` (R128). -/
  | sub (x y : Reg)
  /-- `8XY6`: shift `VX` right by one; the field `Y` is decoded and ignored (R129). -/
  | shr (x y : Reg)
  /-- `8XY7`: `VY - VX` (R130). -/
  | subn (x y : Reg)
  /-- `8XYE`: shift `VX` left by one; the field `Y` is decoded and ignored (R131). -/
  | shl (x y : Reg)
  /-- `9XY0`: skip if `VX ≠ VY` (R108). -/
  | sneReg (x y : Reg)
  /-- `ANNN`: load the index register (R140). -/
  | ldI (nnn : Addr)
  /-- `BNNN`: jump to `NNN + V0` (R103). -/
  | jpV0 (nnn : Addr)
  /-- `CXNN`: random byte under mask (R132). -/
  | rnd (x : Reg) (nn : Byte)
  /-- `DXYN`: draw sprite (R161). -/
  | drw (x y : Reg) (n : Nibble)
  /-- `EX9E`: skip if key `VX` is pressed (R170). -/
  | skp (x : Reg)
  /-- `EXA1`: skip if key `VX` is not pressed (R171). -/
  | sknp (x : Reg)
  /-- `FX07`: read the delay timer (R175). -/
  | ldVxDt (x : Reg)
  /-- `FX0A`: wait for a key (R174). -/
  | ldVxK (x : Reg)
  /-- `FX15`: set the delay timer (R176). -/
  | ldDtVx (x : Reg)
  /-- `FX18`: set the sound timer (R177). -/
  | ldStVx (x : Reg)
  /-- `FX1E`: add register to index (R141). -/
  | addI (x : Reg)
  /-- `FX29`: load glyph address (R142). -/
  | ldF (x : Reg)
  /-- `FX33`: store binary-coded decimal (R143). -/
  | ldB (x : Reg)
  /-- `FX55`: store registers `V0` to `VX` (R146). -/
  | stRegs (x : Reg)
  /-- `FX65`: load registers `V0` to `VX` (R147). -/
  | ldRegs (x : Reg)
  deriving DecidableEq, Repr

/-- The row's `id` in the opcode map (R65), which is its `mnemonic` in spec/opcode_table.json. -/
def Instr.mnemonic : Instr → String
  | .cls => "CLS"
  | .ret => "RET"
  | .jp _ => "JP"
  | .call _ => "CALL"
  | .seImm _ _ => "SE_IMM"
  | .sneImm _ _ => "SNE_IMM"
  | .seReg _ _ => "SE_REG"
  | .ldImm _ _ => "LD_IMM"
  | .addImm _ _ => "ADD_IMM"
  | .ldReg _ _ => "LD_REG"
  | .or _ _ => "OR"
  | .and _ _ => "AND"
  | .xor _ _ => "XOR"
  | .addReg _ _ => "ADD_REG"
  | .sub _ _ => "SUB"
  | .shr _ _ => "SHR"
  | .subn _ _ => "SUBN"
  | .shl _ _ => "SHL"
  | .sneReg _ _ => "SNE_REG"
  | .ldI _ => "LD_I"
  | .jpV0 _ => "JP_V0"
  | .rnd _ _ => "RND"
  | .drw _ _ _ => "DRW"
  | .skp _ => "SKP"
  | .sknp _ => "SKNP"
  | .ldVxDt _ => "LD_VX_DT"
  | .ldVxK _ => "LD_VX_K"
  | .ldDtVx _ => "LD_DT_VX"
  | .ldStVx _ => "LD_ST_VX"
  | .addI _ => "ADD_I"
  | .ldF _ => "LD_F"
  | .ldB _ => "LD_B"
  | .stRegs _ => "ST_REGS"
  | .ldRegs _ => "LD_REGS"

end Sys2Proof
end

