-- ==== Sys2Proof/WellFormed.lean ====
section
/-! DEFINITION. What is checked of a term before the machine sees it.
An instruction's operands carry their field's width in their type (R61, R63), so every term of `Instr` is one the encoding admits and
`Instr.wellFormed` accepts them all: it is written out operand by operand so that a reader can see there is nothing left to refuse.
What CAN be ill-formed is an instruction word (`opcodeTable`, R64 to R66) and a program image (R224). -/

namespace Sys2Proof

/-- A register operand fits its 4-bit field (R61: "register index 0 to 15"). -/
def regFits (x : Reg) : Bool := decide (x.val ≤ 15)

/-- An 8-bit immediate fits `NN` (R61, R63: "an 8-bit value 0 to 255"). -/
def byteFits (nn : Byte) : Bool := decide (nn.toNat ≤ 255)

/-- A 12-bit immediate fits `NNN` (R61, R63: "a 12-bit value 0 to 4095"). -/
def addrFits (nnn : Addr) : Bool := decide (nnn.toNat ≤ 4095)

/-- A 4-bit immediate fits `N` (R61, R63: "a 4-bit value 0 to 15"). -/
def nibbleFits (n : Nibble) : Bool := decide (n.toNat ≤ 15)

/-- Every operand fits the field of its format (R62, R63). -/
def Instr.wellFormed : Instr → Bool
  | .cls | .ret => true
  | .jp nnn | .call nnn | .ldI nnn | .jpV0 nnn => addrFits nnn
  | .seImm x nn | .sneImm x nn | .ldImm x nn | .addImm x nn | .rnd x nn => regFits x && byteFits nn
  | .seReg x y | .ldReg x y | .or x y | .and x y | .xor x y | .addReg x y | .sub x y | .shr x y | .subn x y
  | .shl x y | .sneReg x y => regFits x && regFits y
  | .drw x y n => regFits x && regFits y && nibbleFits n
  | .skp x | .sknp x | .ldVxDt x | .ldVxK x | .ldDtVx x | .ldStVx x | .addI x | .ldF x | .ldB x | .stRegs x
  | .ldRegs x => regFits x

/-- A row of the opcode map: a word `w` selects it when `w & mask = value` (R64). -/
structure OpcodeRow where
  mnemonic : String
  mask     : Word
  value    : Word
  deriving DecidableEq, Repr

/-- `(w & mask) = match` (R64). -/
def OpcodeRow.selects (r : OpcodeRow) (w : Word) : Bool := (w &&& r.mask) == r.value

/-- The rows of formats Z, A, XI and XYN (R62, R65). -/
def opcodeRowsWide : List OpcodeRow :=
  [⟨"CLS", 0xFFFF, 0x00E0⟩, ⟨"RET", 0xFFFF, 0x00EE⟩, ⟨"JP", 0xF000, 0x1000⟩, ⟨"CALL", 0xF000, 0x2000⟩,
   ⟨"SE_IMM", 0xF000, 0x3000⟩, ⟨"SNE_IMM", 0xF000, 0x4000⟩, ⟨"LD_IMM", 0xF000, 0x6000⟩,
   ⟨"ADD_IMM", 0xF000, 0x7000⟩, ⟨"LD_I", 0xF000, 0xA000⟩, ⟨"JP_V0", 0xF000, 0xB000⟩, ⟨"RND", 0xF000, 0xC000⟩,
   ⟨"DRW", 0xF000, 0xD000⟩]

/-- The rows of format XY (R62, R65). -/
def opcodeRowsXY : List OpcodeRow :=
  [⟨"SE_REG", 0xF00F, 0x5000⟩, ⟨"LD_REG", 0xF00F, 0x8000⟩, ⟨"OR", 0xF00F, 0x8001⟩, ⟨"AND", 0xF00F, 0x8002⟩,
   ⟨"XOR", 0xF00F, 0x8003⟩, ⟨"ADD_REG", 0xF00F, 0x8004⟩, ⟨"SUB", 0xF00F, 0x8005⟩, ⟨"SHR", 0xF00F, 0x8006⟩,
   ⟨"SUBN", 0xF00F, 0x8007⟩, ⟨"SHL", 0xF00F, 0x800E⟩, ⟨"SNE_REG", 0xF00F, 0x9000⟩]

/-- The rows of format XF (R62, R65). -/
def opcodeRowsXF : List OpcodeRow :=
  [⟨"SKP", 0xF0FF, 0xE09E⟩, ⟨"SKNP", 0xF0FF, 0xE0A1⟩, ⟨"LD_VX_DT", 0xF0FF, 0xF007⟩, ⟨"LD_VX_K", 0xF0FF, 0xF00A⟩,
   ⟨"LD_DT_VX", 0xF0FF, 0xF015⟩, ⟨"LD_ST_VX", 0xF0FF, 0xF018⟩, ⟨"ADD_I", 0xF0FF, 0xF01E⟩, ⟨"LD_F", 0xF0FF, 0xF029⟩,
   ⟨"LD_B", 0xF0FF, 0xF033⟩, ⟨"ST_REGS", 0xF0FF, 0xF055⟩, ⟨"LD_REGS", 0xF0FF, 0xF065⟩]

/-- The opcode map's 34 rows (R65). The rows are grouped by format; their order carries no meaning (R65). -/
def opcodeTable : List OpcodeRow := opcodeRowsWide ++ opcodeRowsXY ++ opcodeRowsXF

/-- A word is well formed when some row of the opcode map selects it; every other word is an unknown instruction (R64, R66). -/
def wordWellFormed (w : Word) : Bool := opcodeTable.any (·.selects w)

/-- A program image is at most 3584 bytes long (R224). -/
def imageWellFormed (bytes : List Byte) : Bool := decide (bytes.length ≤ Config.maxRom)

end Sys2Proof
end

