-- ==== Sys2Proof/Decode.lean ====
section
/-! DEFINITION. The decoder, total on any bytes and rejecting by name, and after it the encoder (spec/30_encoding.md R60 to R66).
The decoder cuts the word into its fields once (R61) and dispatches on the family nibble and the sub-function nibble or byte; the opcode
map of mask and match pairs (R65) stands apart in WellFormed.lean, so that the two can be held against each other. -/

namespace Sys2Proof

/-- Why the decoder rejects. -/
inductive DecodeError where
  /-- Fewer than two bytes: no instruction word can be formed (R60). -/
  | truncated
  /-- The word matches no row of R65 (R66); the machine raises `UnknownInstruction` for it. -/
  | unknownInstruction (w : Word)
  deriving DecidableEq, Repr

/-- `OP`, `w[15:12]` (R61). -/
def opField (w : Word) : BitVec 4 := w.extractLsb' 12 4

/-- `X`, `w[11:8]` (R61). -/
def xField (w : Word) : Reg := (w.extractLsb' 8 4).toFin

/-- `Y`, `w[7:4]` (R61). -/
def yField (w : Word) : Reg := (w.extractLsb' 4 4).toFin

/-- `N`, `w[3:0]` (R61). -/
def nField (w : Word) : Nibble := w.extractLsb' 0 4

/-- `NN`, `w[7:0]` (R61). -/
def nnField (w : Word) : Byte := w.extractLsb' 0 8

/-- `NNN`, `w[11:0]` (R61). -/
def nnnField (w : Word) : Addr := w.extractLsb' 0 12

/-- Family 0x0: only the two full words of format Z decode; the rest of the 0NNN space is unknown (R66). -/
def decodeFamily0 (w : Word) : Except DecodeError Instr :=
  if w = 0x00E0 then .ok .cls
  else if w = 0x00EE then .ok .ret
  else .error (.unknownInstruction w)

/-- Format XY with the one sub-function nibble 0, families 0x5 and 0x9 (R62). -/
def decodeCompare (w : Word) (f : Reg → Reg → Instr) : Except DecodeError Instr :=
  if nField w = 0 then .ok (f (xField w) (yField w)) else .error (.unknownInstruction w)

/-- Family 0x8: the sub-function nibble selects the operation (R65). -/
def decodeFamily8 (w : Word) : Except DecodeError Instr :=
  match (nField w).toNat with
  | 0x0 => .ok (.ldReg (xField w) (yField w))
  | 0x1 => .ok (.or (xField w) (yField w))
  | 0x2 => .ok (.and (xField w) (yField w))
  | 0x3 => .ok (.xor (xField w) (yField w))
  | 0x4 => .ok (.addReg (xField w) (yField w))
  | 0x5 => .ok (.sub (xField w) (yField w))
  | 0x6 => .ok (.shr (xField w) (yField w))
  | 0x7 => .ok (.subn (xField w) (yField w))
  | 0xE => .ok (.shl (xField w) (yField w))
  | _ => .error (.unknownInstruction w)

/-- Family 0xE: the sub-function byte selects the operation (R65). -/
def decodeFamilyE (w : Word) : Except DecodeError Instr :=
  match (nnField w).toNat with
  | 0x9E => .ok (.skp (xField w))
  | 0xA1 => .ok (.sknp (xField w))
  | _ => .error (.unknownInstruction w)

/-- Family 0xF: the sub-function byte selects the operation (R65). -/
def decodeFamilyF (w : Word) : Except DecodeError Instr :=
  match (nnField w).toNat with
  | 0x07 => .ok (.ldVxDt (xField w))
  | 0x0A => .ok (.ldVxK (xField w))
  | 0x15 => .ok (.ldDtVx (xField w))
  | 0x18 => .ok (.ldStVx (xField w))
  | 0x1E => .ok (.addI (xField w))
  | 0x29 => .ok (.ldF (xField w))
  | 0x33 => .ok (.ldB (xField w))
  | 0x55 => .ok (.stRegs (xField w))
  | 0x65 => .ok (.ldRegs (xField w))
  | _ => .error (.unknownInstruction w)

/-- The dispatch on the family nibble (R61, R64, R65). -/
def decodeWord (w : Word) : Except DecodeError Instr :=
  match (opField w).toNat with
  | 0x0 => decodeFamily0 w
  | 0x1 => .ok (.jp (nnnField w))
  | 0x2 => .ok (.call (nnnField w))
  | 0x3 => .ok (.seImm (xField w) (nnField w))
  | 0x4 => .ok (.sneImm (xField w) (nnField w))
  | 0x5 => decodeCompare w .seReg
  | 0x6 => .ok (.ldImm (xField w) (nnField w))
  | 0x7 => .ok (.addImm (xField w) (nnField w))
  | 0x8 => decodeFamily8 w
  | 0x9 => decodeCompare w .sneReg
  | 0xA => .ok (.ldI (nnnField w))
  | 0xB => .ok (.jpV0 (nnnField w))
  | 0xC => .ok (.rnd (xField w) (nnField w))
  | 0xD => .ok (.drw (xField w) (yField w) (nField w))
  | 0xE => decodeFamilyE w
  | _ => decodeFamilyF w

/-- The instruction word of two consecutive bytes: the byte at the lower address is the HIGH byte (R46, R60). -/
def wordOfBytes (hi lo : Byte) : Word := hi ++ lo

/-- The high byte of a word, stored at the lower address (R46, R49). -/
def highByte (w : Word) : Byte := w.extractLsb' 8 8

/-- The low byte of a word, stored at the higher address (R46, R49). -/
def lowByte (w : Word) : Byte := w.extractLsb' 0 8

/-- Decoding a byte sequence: the first instruction and the bytes after it (R60: every instruction is exactly two bytes). -/
def decode : List Byte → Except DecodeError (Instr × List Byte)
  | hi :: lo :: rest =>
    match decodeWord (wordOfBytes hi lo) with
    | .ok i => .ok (i, rest)
    | .error e => .error e
  | _ => .error .truncated

/-- A word from its four nibbles, the family nibble first (R61). -/
def wordOfNibbles (op x y n : BitVec 4) : Word := op ++ x ++ y ++ n

/-- A register index as its 4-bit field (R61). -/
def regNibble (x : Reg) : BitVec 4 := BitVec.ofFin x

/-- Format A (R62): a family nibble and `NNN`. -/
def encodeA (op : BitVec 4) (nnn : Addr) : Word := op ++ nnn

/-- Format XI (R62): a family nibble, `X` and `NN`. Format XF is the same with a fixed sub-function byte. -/
def encodeXI (op : BitVec 4) (x : Reg) (nn : Byte) : Word := op ++ regNibble x ++ nn

/-- Format XYN (R62): a family nibble, `X`, `Y` and `N`. Format XY is the same with a fixed sub-function nibble. -/
def encodeXYN (op : BitVec 4) (x y : Reg) (n : Nibble) : Word :=
  wordOfNibbles op (regNibble x) (regNibble y) n

/-- The instruction word of an instruction (R62, R65). -/
def encode : Instr → Word
  | .cls => 0x00E0
  | .ret => 0x00EE
  | .jp nnn => encodeA 0x1 nnn
  | .call nnn => encodeA 0x2 nnn
  | .seImm x nn => encodeXI 0x3 x nn
  | .sneImm x nn => encodeXI 0x4 x nn
  | .seReg x y => encodeXYN 0x5 x y 0x0
  | .ldImm x nn => encodeXI 0x6 x nn
  | .addImm x nn => encodeXI 0x7 x nn
  | .ldReg x y => encodeXYN 0x8 x y 0x0
  | .or x y => encodeXYN 0x8 x y 0x1
  | .and x y => encodeXYN 0x8 x y 0x2
  | .xor x y => encodeXYN 0x8 x y 0x3
  | .addReg x y => encodeXYN 0x8 x y 0x4
  | .sub x y => encodeXYN 0x8 x y 0x5
  | .shr x y => encodeXYN 0x8 x y 0x6
  | .subn x y => encodeXYN 0x8 x y 0x7
  | .shl x y => encodeXYN 0x8 x y 0xE
  | .sneReg x y => encodeXYN 0x9 x y 0x0
  | .ldI nnn => encodeA 0xA nnn
  | .jpV0 nnn => encodeA 0xB nnn
  | .rnd x nn => encodeXI 0xC x nn
  | .drw x y n => encodeXYN 0xD x y n
  | .skp x => encodeXI 0xE x 0x9E
  | .sknp x => encodeXI 0xE x 0xA1
  | .ldVxDt x => encodeXI 0xF x 0x07
  | .ldVxK x => encodeXI 0xF x 0x0A
  | .ldDtVx x => encodeXI 0xF x 0x15
  | .ldStVx x => encodeXI 0xF x 0x18
  | .addI x => encodeXI 0xF x 0x1E
  | .ldF x => encodeXI 0xF x 0x29
  | .ldB x => encodeXI 0xF x 0x33
  | .stRegs x => encodeXI 0xF x 0x55
  | .ldRegs x => encodeXI 0xF x 0x65

/-- The two bytes of an instruction in memory, high byte first (R46, R60). -/
def encodeBytes (i : Instr) : List Byte := [highByte (encode i), lowByte (encode i)]

/-- The word of `nbits` bits that spec/opcode_table.json numbers, as the one 16-bit word it is (every bit at and above `nbits` is 0). -/
def tableWord (nbits w : Nat) : Word := BitVec.ofNat 16 (w % 2 ^ nbits)

/-- The instruction the decoder reads from the table's word, laid out as memory holds it: high byte at the lower address (R46). -/
def decodeTableWord (nbits w : Nat) : Option Instr :=
  match decode [highByte (tableWord nbits w), lowByte (tableWord nbits w)] with
  | .ok (i, _) => some i
  | .error _ => none

end Sys2Proof
end

