-- ==== Sys2Proof/Machine/State.lean ====
section
/-! DEFINITION. The architectural state of the core (spec/10_state.md), as plain data, and its value after reset (R37).
"Everything the core holds between two transactions is listed here" (10_state.md): the fields up to `mem` are the spec's, one for one.
`font` and `draws` are the MODEL's own fields: the open parameter `FONT` (log entry 1) and the index of the next free draw (log entry 2). -/

namespace Sys2Proof.Machine

/-- The faults of the table of R190, with "no fault" (code 0). -/
inductive FaultCode where
  /-- Code 0, no fault. -/
  | noFault
  /-- Code 1, raised by decode: the fetched word matches no row (R191). -/
  | unknownInstruction
  /-- Code 2, raised by `00EE` with `sp = 0` (R192). -/
  | stackUnderflow
  /-- Code 3, raised by `2NNN` with `sp = 16` (R193). -/
  | stackOverflow
  /-- Code 4, raised by the fetch and by `DXYN`, `FX33`, `FX55`, `FX65` (R194). -/
  | memoryOutOfRange
  /-- Code 5, raised by `EX9E` and `EXA1` with `VX > 15` (R196). -/
  | keyIndexOutOfRange
  deriving DecidableEq, Repr

/-- The fault record (R25): written once when `halted` is set, cleared by `INIT`. -/
structure FaultRecord where
  /-- `fault.code`, 3 bits, 0 to 5. -/
  code   : FaultCode
  /-- `fault.pc`, the pc of the faulting instruction. -/
  pc     : Word
  /-- `fault.opcode`, the fetched word, or 0 when the fetch itself faulted. -/
  opcode : Word
  /-- `fault.info`, the offending address or key index, or 0. -/
  info   : Word
  deriving DecidableEq, Repr

/-- The cleared fault record (R37: all 0). -/
def FaultRecord.clear : FaultRecord := { code := .noFault, pc := 0, opcode := 0, info := 0 }

/-- The memory array as the list of the cells that differ from what an unlisted address reads as (Ops.lean, `unlistedByte`). -/
abbrev Memory := List Host.Cell

/-- The 64 x 32 grid of boolean pixels, row-major: row `y`, then column `x` (R20). -/
abbrev Frame := Vector (Vector Bool 64) 32

/-- The whole state of the core. -/
structure State where
  /-- `V[0]` to `V[15]`, 8 bits each (R10, R11). -/
  V     : Vector Byte 16
  /-- The index register, 16 bits, never masked to 12 (R13). -/
  I     : Word
  /-- The program counter: the address of the instruction the next cycle fetches (R14). -/
  pc    : Word
  /-- The number of call-stack entries in use, 0 to 16 (R16). -/
  sp    : Fin 17
  /-- `stack[0]` to `stack[15]`, 16 bits each; entries at `sp` and above are dead (R16). -/
  stack : Vector Word 16
  /-- The delay timer, 8 bits (R18). -/
  DT    : Byte
  /-- The sound timer, 8 bits (R18). -/
  ST    : Byte
  /-- The framebuffer (R20). -/
  fb    : Frame
  /-- `display_changed` (R21). -/
  displayChanged : Bool
  /-- `key[0]` to `key[15]`, true when pressed; written by the host only (R22). -/
  key   : Vector Bool 16
  /-- The program-loaded flag (R23). -/
  loaded : Bool
  /-- Set by any fault, cleared by `INIT` only (R24). -/
  halted : Bool
  /-- The fault record (R25). -/
  fault : FaultRecord
  /-- The `beep` output as the last cycle left it (R26). -/
  beep  : Bool
  /-- The memory array (R27, R40). -/
  mem   : Memory
  /-- The MODEL's field for the parameter `FONT`, 80 bytes (R44); no transaction changes it. Log entry 1. -/
  font  : Vector Byte 80
  /-- The MODEL's counter of `CXNN` draws: the index of the next free draw of `rand` (R33). Log entry 2. -/
  draws : Nat
  deriving DecidableEq, Repr

/-- Reasons for the machine to STOP with a fault outside the spec's own. There are none: every fault the spec names ends in the halted
state it describes, which is a next state (R195), and every instruction "either completes or raises a listed fault"
(spec/93_implementation_defined.md). Nothing raises one, so nothing is unsafe about it. -/
inductive Fault
  deriving DecidableEq, Repr

/-- Reasons for the model to refuse an instruction. -/
inductive Refusal where
  /-- Raised by `exec`'s arm of an instruction that has no meaning yet (safe: the model stops). No arm raises it: all 34 have one. -/
  | notModelled (mnemonic : String)
  deriving DecidableEq, Repr

/-- What a meaning and a step answer. -/
abbrev Result := Host.Outcome State Fault Refusal

/-- The state after `INIT` on a block whose parameter `FONT` is `font` (R37, R220): memory lists nothing, so that it reads
as `font` in 0x050 to 0x09F and as 0x00 elsewhere. -/
def State.resetWith (font : Vector Byte 80) : State where
  V := Vector.replicate 16 0
  I := 0
  pc := 0x200
  sp := 0
  stack := Vector.replicate 16 0
  DT := 0
  ST := 0
  fb := Vector.replicate 32 (Vector.replicate 64 false)
  displayChanged := false
  key := Vector.replicate 16 false
  loaded := false
  halted := false
  fault := FaultRecord.clear
  beep := false
  mem := []
  font := font
  draws := 0

/-- The state after reset (R37; power-on performs `INIT`, R221), with the spec's default `FONT` (R44). -/
def State.reset : State := State.resetWith Config.defaultFont

end Sys2Proof.Machine
end

