-- ==== Sys2Proof/Machine/Operands.lean ====
section
/-! DEFINITION. The operand forms (spec/30_encoding.md R61, R63; spec/43_index_memory.md R144): registers named by a nibble, immediates taken
from the word unsigned and zero-extended, the index register, and the one data addressing mode `EA = I + k`. -/

namespace Sys2Proof.Machine

/-- Reading `V[r]` (R6, R10). There is no hard-wired register: every register reads what was last written. -/
def State.reg (s : State) (r : Reg) : Byte := s.V[r.val]

/-- `V[r] <- v` (R6, R10). -/
def State.setReg (s : State) (r : Reg) (v : Byte) : State := { s with V := s.V.set r.val v }

/-- `V[0] .. V[x]` in ascending order, the run that `FX55` stores (R146). -/
def State.regRun (s : State) (x : Reg) : List Byte := s.V.toList.take (x.val + 1)

/-- `V[i] <- bytes[i]` for every index of `bytes`; the other registers keep their values (R147). -/
def State.setRegRun (s : State) (bytes : List Byte) : State :=
  { s with V := Vector.ofFn fun r : Fin 16 => (bytes[r.val]?).getD (s.reg r) }

/-- `I <- v` (R13). -/
def State.setI (s : State) (v : Word) : State := { s with I := v }

/-- `NNN` zero-extended to 16 bits, as `pc` and `I` take it (R63). -/
def zextAddr (nnn : Addr) : Word := nnn.zeroExtend 16

/-- A register byte zero-extended to 16 bits (R63, R103, R142). -/
def zextByte (v : Byte) : Word := v.zeroExtend 16

/-- The effective address `I + k`, a natural number that is not wrapped (R48, R144). -/
def State.effectiveAddress (s : State) (k : Nat) : Nat := s.I.toNat + k

/-- The key index in `VX`, when it names one of the 16 keys (R172). -/
def keyIndex (v : Byte) : Option (Fin 16) :=
  if h : v.toNat < 16 then some ⟨v.toNat, h⟩ else none

end Sys2Proof.Machine
end

