-- ==== Sys2Proof/Machine/Flags.lean ====
section
/-! DEFINITION. Every flag computation of the spec (spec/10_state.md R11): what the seven flag-writing instructions put into `VF`.
The sprite collision is computed with the blit itself (Ops.lean). -/

namespace Sys2Proof.Machine

/-- Carry out of the 8-bit addition: `sum > 255` (R127). -/
def carryFlag (a b : Byte) : Bool := decide (255 < a.toNat + b.toNat)

/-- The STRICT comparison minuend > subtrahend, 0 on a borrow and on equal operands (R128, R130, R133). -/
def greaterFlag (a b : Byte) : Bool := decide (b.toNat < a.toNat)

/-- The bit that a right shift by one loses: bit 0 (R129). -/
def lowBitFlag (v : Byte) : Bool := v.getLsbD 0

/-- The bit that a left shift by one loses: bit 7 (R131). -/
def highBitFlag (v : Byte) : Bool := v.getLsbD 7

/-- The unwrapped sum `I + VX` lies above 0xFFF, the end of the memory array (R141, decision D12). -/
def indexRangeFlag (i : Word) (v : Byte) : Bool := decide (0xFFF < i.toNat + v.toNat)

/-- `V[0xF] <- 1 if b else 0` (R11). -/
def State.setFlag (s : State) (b : Bool) : State := s.setReg regF (flagByte b)

end Sys2Proof.Machine
end

