-- ==== Sys2Proof/Machine/Ops.lean ====
section
/-! DEFINITION. The named operations over memory, the program counter, the call stack, the timers, the keypad, the framebuffer and the fault
record. Each primitive of the spec's pseudocode stands here once (spec/00_scope.md R6); the meanings are written over them. -/

namespace Sys2Proof.Machine

/-! ### Memory (spec/20_memory.md) -/

/-- What an address that memory does not list reads as: the reset contents (R37, R42, R43), which are `FONT` in
0x050 to 0x09F and 0x00 everywhere else. -/
def unlistedByte (font : Vector Byte 80) (a : Nat) : Byte :=
  if h : 0x050 ≤ a ∧ a < 0x0A0 then font[a - 0x050]'(by omega) else 0

/-- The byte at address `a`. -/
def Memory.read (font : Vector Byte 80) (a : Nat) : Memory → Byte
  | [] => unlistedByte font a
  | (b, v) :: m => if b = a then v else Memory.read font a m

/-- The cell `(a, v)` in front of `m`, left out when `a` reads as `v` without it. -/
def Memory.put (font : Vector Byte 80) (a : Nat) (v : Byte) (m : Memory) : Memory :=
  if v = unlistedByte font a then m else (a, v) :: m

/-- `mem[a] <- v`, keeping the canonical form. -/
def Memory.write (font : Vector Byte 80) (a : Nat) (v : Byte) : Memory → Memory
  | [] => Memory.put font a v []
  | (b, w) :: m =>
    if b < a then (b, w) :: Memory.write font a v m
    else if b = a then Memory.put font a v m
    else Memory.put font a v ((b, w) :: m)

/-- The canonical form from address `lo` on: addresses strictly rising, inside the array, and no entry that reads the same unlisted. -/
def Memory.wfFrom (font : Vector Byte 80) : Nat → Memory → Bool
  | _, [] => true
  | lo, (a, v) :: m =>
    decide (lo ≤ a) && decide (a < Config.memSize) && (v != unlistedByte font a) && Memory.wfFrom font (a + 1) m

/-- The canonical form of a memory: equal memories are equal lists. -/
def Memory.wf (font : Vector Byte 80) (m : Memory) : Bool := Memory.wfFrom font 0 m

/-- `mem[a]` (R40). -/
def State.byteAt (s : State) (a : Nat) : Byte := Memory.read s.font a s.mem

/-- `mem[a] <- v` (R40); there is no write protection (R54). -/
def State.setByte (s : State) (a : Nat) (v : Byte) : State := { s with mem := Memory.write s.font a v s.mem }

/-- The bytes of a list stored at ascending addresses from `a` on (R50). -/
def State.setBytes (s : State) (a : Nat) : List Byte → State
  | [] => s
  | v :: vs => (s.setByte a v).setBytes (a + 1) vs

/-- The range check of an access to the `n` bytes from `a` on, over the UNWRAPPED sum: the lowest out-of-range address it would touch,
if there is one (R45 to R48, R190). An access to no byte is never out of range (R161). -/
def outOfRange (a n : Nat) : Option Word :=
  if 0 < n ∧ 0xFFF < a + (n - 1) then some (BitVec.ofNat 16 (max a 0x1000)) else none

/-- The `n` bytes from `a` on in ascending order, or the offending address; the whole range is checked first (R45, R48). -/
def State.readRun (s : State) (a n : Nat) : Except Word (List Byte) :=
  match outOfRange a n with
  | some info => .error info
  | none => .ok ((List.range n).map fun k => s.byteAt (a + k))

/-- The bytes stored from `a` on, or the offending address and then nothing stored; the whole range is checked first (R47, R48). -/
def State.writeRun (s : State) (a : Nat) (bytes : List Byte) : Except Word State :=
  match outOfRange a bytes.length with
  | some info => .error info
  | none => .ok (s.setBytes a bytes)

/-- `MemRead(pc, 2)`, the instruction fetch, big-endian (R46, R83), or the offending address. -/
def State.fetchWord (s : State) : Except Word Word :=
  match outOfRange s.pc.toNat 2 with
  | some info => .error info
  | none => .ok (wordOfBytes (s.byteAt s.pc.toNat) (s.byteAt (s.pc.toNat + 1)))

/-! ### Program counter (spec/40_cycle.md R87) -/

/-- `pc <- t`. -/
def State.setPc (s : State) (t : Word) : State := { s with pc := t }

/-- `pc <- (p + 2) mod 65536`, the default advance. -/
def State.advance (s : State) : State := s.setPc (s.pc + 2)

/-- `pc <- (p + 4) mod 65536` when the condition holds, else `(p + 2) mod 65536`. -/
def State.skipIf (s : State) (c : Bool) : State := s.setPc (if c then s.pc + 4 else s.pc + 2)

/-! ### Call stack (spec/10_state.md R16, R17) -/

/-- `push(v)`; none when all 16 entries are in use. -/
def State.push (s : State) (v : Word) : Option State :=
  if h : s.sp.val < 16 then
    some { s with stack := s.stack.set s.sp.val v, sp := ⟨s.sp.val + 1, by omega⟩ }
  else none

/-- `pop()`; none when the stack is empty. The entry is not erased. -/
def State.pop (s : State) : Option (Word × State) :=
  if h : 0 < s.sp.val then
    some (s.stack[s.sp.val - 1]'(by omega), { s with sp := ⟨s.sp.val - 1, by omega⟩ })
  else none

/-! ### Timers (spec/10_state.md R18, spec/40_cycle.md R88) -/

/-- `DT <- v`. -/
def State.setDT (s : State) (v : Byte) : State := { s with DT := v }

/-- `ST <- v`. -/
def State.setST (s : State) (v : Byte) : State := { s with ST := v }

/-- One count down, saturating at 0. -/
def countDown (v : Byte) : Byte := if v = 0 then 0 else v - 1

/-- Step 7 of the cycle, the tick: the beep, then both timers (R88, R89). -/
def tick (s : State) : State := { s with beep := s.ST != 0, DT := countDown s.DT, ST := countDown s.ST }

/-! ### Keypad (spec/10_state.md R22) -/

/-- `key[k]`. -/
def State.keyAt (s : State) (k : Fin 16) : Bool := s.key[k.val]

/-- The least `k` with `key[k] = 1`, when a key is pressed (R174, decision D8). -/
def State.firstKey (s : State) : Option (Fin 16) := (List.finRange 16).find? fun k => s.keyAt k

/-! ### Random input (spec/10_state.md R33) -/

/-- The byte on the `rand` port for the next `CXNN`: a free value. -/
def State.randByte (s : State) : Byte := Config.rand s.draws

/-- The port has been sampled once more. -/
def State.sampled (s : State) : State := { s with draws := s.draws + 1 }

/-! ### Framebuffer (spec/10_state.md R20, spec/44_display.md R161) -/

/-- `fb[y][x]`; a position outside the frame reads as not set. -/
def Frame.pixel (f : Frame) (y x : Nat) : Bool :=
  if h : y < 32 ∧ x < 64 then (f[y]'h.1)[x]'h.2 else false

/-- The frame with every pixel 0 (R160). -/
def blankFrame : Frame := Vector.replicate 32 (Vector.replicate 64 false)

/-- A frame being drawn on, with the sticky collision flag of the draw so far. -/
structure Blit where
  frame     : Frame
  collision : Bool
  deriving DecidableEq, Repr

/-- A sprite bit that is 1 at column `x`, row `y`: outside the frame it is dropped; inside it flips the pixel, and meeting a set
pixel sets the collision flag (R161). -/
def Blit.flip (p : Blit) (y x : Nat) : Blit :=
  if h : y < 32 ∧ x < 64 then
    { frame := p.frame.set y ((p.frame[y]'h.1).set x (!(p.frame[y]'h.1)[x]'h.2) h.2) h.1
      collision := p.collision || (p.frame[y]'h.1)[x]'h.2 }
  else p

/-- One sprite byte at row `y`: column `x0 + col` is bit `7 - col`, the most significant bit first (R161). -/
def Blit.row (p : Blit) (b : Byte) (y x0 : Nat) : Blit :=
  [0, 1, 2, 3, 4, 5, 6, 7].foldl (fun q col => if b.getLsbD (7 - col) then q.flip y (x0 + col) else q) p

/-- The sprite's rows from row `y` on, in ascending order (R161). -/
def Blit.rows (p : Blit) (y x0 : Nat) : List Byte → Blit
  | [] => p
  | b :: bs => (p.row b y x0).rows (y + 1) x0 bs

/-- The framebuffer replaced and `display_changed` set (R160, R161). -/
def State.setFrame (s : State) (f : Frame) : State := { s with fb := f, displayChanged := true }

/-! ### Fault entry, and the only way back (spec/60_exceptions.md R190, R195, R199) -/

/-- `fault.code` as the 3 bits of R25, R190. -/
def FaultCode.toBits : FaultCode → BitVec 3
  | .noFault => 0
  | .unknownInstruction => 1
  | .stackUnderflow => 2
  | .stackOverflow => 3
  | .memoryOutOfRange => 4
  | .keyIndexOutOfRange => 5

/-- Taking a fault: the record is written with the faulting instruction's pc, `halted` is set and `beep` reads 0 (R91's `FAULT`,
R195). Nothing else changes: `pc` stays, control goes nowhere. -/
def takeFault (code : FaultCode) (opcode info : Word) (s : State) : State :=
  { s with fault := { code := code, pc := s.pc, opcode := opcode, info := info }, halted := true, beep := false }

/-- `INIT`, the only exit from the halted state (R30, R199, R220): every piece of state to its reset value. The block's `FONT` stays its
`FONT`, and the environment's draws are not taken back (log entries 1 and 2). -/
def init (s : State) : State := { State.resetWith s.font with draws := s.draws }

/-- How an instruction whose memory access may be out of range ends: with `MemoryOutOfRange` and the offending address, or with the
default advance (R194, R195). -/
def finishAccess (opcode : Word) (s : State) : Except Word State → Result
  | .error info => .next (takeFault .memoryOutOfRange opcode info s)
  | .ok t => .next t.advance

end Sys2Proof.Machine
end

