-- ==== Sys2Proof/Machine/Cycle.lean ====
section
/-! DEFINITION. The parts of the cycle around the execute step (spec/40_cycle.md R80 to R91), and the placing of an instruction word where the
next cycle fetches. Step.lean only puts them in order. -/

namespace Sys2Proof.Machine

/-- Step 1, the gate: a cycle is executed when a program is loaded and the core is not halted (R81). -/
def runnable (s : State) : Bool := s.loaded && !s.halted

/-- A no-op cycle: no state changes and the output `beep` reads 0 (R32, R81). -/
def noopCycle (s : State) : State := { s with beep := false }

/-- Step 2: `display_changed <- 0` (R82). -/
def beginCycle (s : State) : State := { s with displayChanged := false }

/-- Steps 3 and 4, fetch and decode: the instruction, or the state after the fault that stops the cycle (R83, R84). -/
def fetchDecode (s : State) : Except State Instr :=
  match s.fetchWord with
  | .error info => .error (takeFault .memoryOutOfRange 0 info s)
  | .ok w =>
    match decodeWord w with
    | .ok i => .ok i
    | .error _ => .error (takeFault .unknownInstruction w 0 s)

/-- Step 7: the tick, skipped in a cycle that faulted (R88, R90). A cycle is executed with `halted` = 0, so `halted` = 1
after the execute step says that it faulted. -/
def finishCycle (s : State) : State := if s.halted then s else tick s

/-- Where a word is placed for the next cycle: at `pc`, or at 0x200 when `pc` cannot be fetched from. -/
def placeAddress (s : State) : Word := if s.pc.toNat ≤ 0xFFE then s.pc else 0x200

/-- The word of spec/opcode_table.json placed where the next cycle fetches, on a core that executes it: a program is loaded and the core
is not halted. It stands for the host's `LOAD` (log entry 6). -/
def placeWord (s : State) (nbits w : Nat) : State :=
  let t := { s with pc := placeAddress s, loaded := true, halted := false }
  t.setBytes t.pc.toNat [highByte (tableWord nbits w), lowByte (tableWord nbits w)]

end Sys2Proof.Machine
end

