-- ==== Sys2Proof/Machine/ControlFlow.lean ====
section
/-! DEFINITION. Control transfer (spec/41_control_flow.md R100 to R109). `pc` still holds the address of the executing instruction (R14). -/

namespace Sys2Proof.Machine

/-- `1NNN` (R101). -/
def execJp (nnn : Addr) (s : State) : Result := .next (s.setPc (zextAddr nnn))

/-- `2NNN` (R102): pushes the address of the `2NNN` itself; the 17th outstanding call faults. -/
def execCall (nnn : Addr) (s : State) : Result :=
  match s.push s.pc with
  | none => .next (takeFault .stackOverflow (encode (.call nnn)) 0 s)
  | some t => .next (t.setPc (zextAddr nnn))

/-- `BNNN` (R103): the sum is not reduced to 12 bits. -/
def execJpV0 (nnn : Addr) (s : State) : Result := .next (s.setPc (zextAddr nnn + zextByte (s.reg 0)))

/-- `00EE` (R104): the popped value plus 2 (90_conflicts.md C2); an empty stack faults. -/
def execRet (s : State) : Result :=
  match s.pop with
  | none => .next (takeFault .stackUnderflow (encode .ret) 0 s)
  | some (r, t) => .next (t.setPc (r + 2))

/-- `3XNN` (R105). -/
def execSeImm (x : Reg) (nn : Byte) (s : State) : Result := .next (s.skipIf (s.reg x == nn))

/-- `4XNN` (R106). -/
def execSneImm (x : Reg) (nn : Byte) (s : State) : Result := .next (s.skipIf (s.reg x != nn))

/-- `5XY0` (R107). -/
def execSeReg (x y : Reg) (s : State) : Result := .next (s.skipIf (s.reg x == s.reg y))

/-- `9XY0` (R108). -/
def execSneReg (x y : Reg) (s : State) : Result := .next (s.skipIf (s.reg x != s.reg y))

end Sys2Proof.Machine
end

