-- ==== Sys2Proof/Machine/Display.lean ====
section
/-! DEFINITION. The display instructions (spec/44_display.md R159 to R161). -/

namespace Sys2Proof.Machine

/-- `00E0` (R160): `display_changed` is set even on a clear screen (90_conflicts.md C3); `VF` is not touched. -/
def execCls (s : State) : Result := .next (s.setFrame blankFrame).advance

/-- The sprite drawn: the start column is `VX mod 64` and the start row `VY mod 32`, both read before `VF` is written; pixels past the
right and bottom edges are dropped; `VF` receives the collision flag (R161). -/
def drawSprite (x y : Reg) (s : State) (sprite : List Byte) : State :=
  let p := Blit.rows { frame := s.fb, collision := false } ((s.reg y).toNat % 32) ((s.reg x).toNat % 64) sprite
  (s.setFlag p.collision).setFrame p.frame

/-- `DXYN` (R161): all `N` bytes are read and range-checked before anything is written (decision D24). -/
def execDrw (x y : Reg) (n : Nibble) (s : State) : Result :=
  finishAccess (encode (.drw x y n)) s ((s.readRun (s.effectiveAddress 0) n.toNat).map (drawSprite x y s))

end Sys2Proof.Machine
end

