-- ==== Sys2Proof/Machine/IndexMemory.lean ====
section
/-! DEFINITION. The index register and the memory instructions (spec/43_index_memory.md R139 to R148). `I` is never modified by a memory
access (R148). -/

namespace Sys2Proof.Machine

/-- `ANNN` (R140). -/
def execLdI (nnn : Addr) (s : State) : Result := .next (s.setI (zextAddr nnn)).advance

/-- `FX1E` (R141): `I` wraps at 65536; `VF` reports a sum above 0xFFF and is written after `I`. -/
def execAddI (x : Reg) (s : State) : Result :=
  .next ((s.setI (s.I + zextByte (s.reg x))).setFlag (indexRangeFlag s.I (s.reg x))).advance

/-- `FX29` (R142): the formula on the whole 8-bit value, unmasked (decision D13). -/
def execLdF (x : Reg) (s : State) : Result := .next (s.setI (0x050 + 5 * zextByte (s.reg x))).advance

/-- The three decimal digits of a byte, hundreds first (R143). -/
def decimalDigits (v : Byte) : List Byte := [v / 100, (v / 10) % 10, v % 10]

/-- `FX33` (R143). -/
def execLdB (x : Reg) (s : State) : Result :=
  finishAccess (encode (.ldB x)) s (s.writeRun (s.effectiveAddress 0) (decimalDigits (s.reg x)))

/-- `FX55` (R146). -/
def execStRegs (x : Reg) (s : State) : Result :=
  finishAccess (encode (.stRegs x)) s (s.writeRun (s.effectiveAddress 0) (s.regRun x))

/-- `FX65` (R147). -/
def execLdRegs (x : Reg) (s : State) : Result :=
  finishAccess (encode (.ldRegs x)) s ((s.readRun (s.effectiveAddress 0) (x.val + 1)).map s.setRegRun)

end Sys2Proof.Machine
end

