-- ==== Sys2Proof/Machine/KeypadTimers.lean ====
section
/-! DEFINITION. The keypad and timer instructions (spec/45_keypad_timers.md R169 to R177). The tick of the same cycle comes after each of
them (spec/40_cycle.md R88; Step.lean). -/

namespace Sys2Proof.Machine

/-- The keypad skip: a key index above 15 faults with `VX` in the record, no masking (R172). -/
def skipOnKey (opcode : Word) (x : Reg) (wanted : Bool) (s : State) : Result :=
  match keyIndex (s.reg x) with
  | none => .next (takeFault .keyIndexOutOfRange opcode (zextByte (s.reg x)) s)
  | some k => .next (s.skipIf (s.keyAt k == wanted))

/-- `EX9E` (R170). -/
def execSkp (x : Reg) (s : State) : Result := skipOnKey (encode (.skp x)) x true s

/-- `EXA1` (R171). -/
def execSknp (x : Reg) (s : State) : Result := skipOnKey (encode (.sknp x)) x false s

/-- `FX0A` (R174): with no key pressed `pc` stays, so the same instruction is fetched next cycle. -/
def execLdVxK (x : Reg) (s : State) : Result :=
  match s.firstKey with
  | none => .next (s.setPc s.pc)
  | some k => .next (s.setReg x (BitVec.ofNat 8 k.val)).advance

/-- `FX07` (R175): `DT` as the previous cycle's tick left it. -/
def execLdVxDt (x : Reg) (s : State) : Result := .next (s.setReg x s.DT).advance

/-- `FX15` (R176). -/
def execLdDtVx (x : Reg) (s : State) : Result := .next (s.setDT (s.reg x)).advance

/-- `FX18` (R177). -/
def execLdStVx (x : Reg) (s : State) : Result := .next (s.setST (s.reg x)).advance

end Sys2Proof.Machine
end

