-- ==== Sys2Proof/Machine/RegisterAlu.lean ====
section
/-! DEFINITION. Register load, arithmetic, logic, shift and random (spec/42_register_alu.md R120 to R133). None of the twelve can fault.
The statements of each rule run in the written order, each reading the state the earlier ones left (spec/40_cycle.md R86): this is what decides
the cases where `VF` is also an operand. -/

namespace Sys2Proof.Machine

/-- `6XNN` (R121). -/
def execLdImm (x : Reg) (nn : Byte) (s : State) : Result := .next (s.setReg x nn).advance

/-- `7XNN` (R122): wraps, and `VF` is not a flag here. -/
def execAddImm (x : Reg) (nn : Byte) (s : State) : Result := .next (s.setReg x (s.reg x + nn)).advance

/-- `8XY0` (R123). -/
def execLdReg (x y : Reg) (s : State) : Result := .next (s.setReg x (s.reg y)).advance

/-- `8XY1` (R124). -/
def execOr (x y : Reg) (s : State) : Result := .next (s.setReg x (s.reg x ||| s.reg y)).advance

/-- `8XY2` (R125). -/
def execAnd (x y : Reg) (s : State) : Result := .next (s.setReg x (s.reg x &&& s.reg y)).advance

/-- `8XY3` (R126). -/
def execXor (x y : Reg) (s : State) : Result := .next (s.setReg x (s.reg x ^^^ s.reg y)).advance

/-- `8XY4` (R127): both operands are read first, `VX` is written, then `VF`. -/
def execAddReg (x y : Reg) (s : State) : Result :=
  .next ((s.setReg x (s.reg x + s.reg y)).setFlag (carryFlag (s.reg x) (s.reg y))).advance

/-- `VF` is written FIRST; the difference then reads its operands again (R128, R130). -/
def subtractInto (x minuend subtrahend : Reg) (s : State) : State :=
  let t := s.setFlag (greaterFlag (s.reg minuend) (s.reg subtrahend))
  t.setReg x (t.reg minuend - t.reg subtrahend)

/-- `8XY5` (R128). -/
def execSub (x y : Reg) (s : State) : Result := .next (subtractInto x x y s).advance

/-- `8XY7` (R130). -/
def execSubn (x y : Reg) (s : State) : Result := .next (subtractInto x y x s).advance

/-- `8XY6` (R129): `VF` first, then the shift of `VX` in place; `Y` is ignored (decision D10). -/
def execShr (x _y : Reg) (s : State) : Result :=
  let t := s.setFlag (lowBitFlag (s.reg x))
  .next (t.setReg x (t.reg x >>> 1)).advance

/-- `8XYE` (R131): `VF` first, then the shift of `VX` in place; `Y` is ignored (decision D10). -/
def execShl (x _y : Reg) (s : State) : Result :=
  let t := s.setFlag (highBitFlag (s.reg x))
  .next (t.setReg x (t.reg x <<< 1)).advance

/-- `CXNN` (R132): the draw is a free value (R33). -/
def execRnd (x : Reg) (nn : Byte) (s : State) : Result :=
  .next (s.sampled.setReg x (s.randByte &&& nn)).advance

end Sys2Proof.Machine
end

