-- ==== Sys2Proof/Machine/Step.lean ====
section
/-! DEFINITION. One step of the machine is one `CYCLE` transaction (spec/40_cycle.md R80, R91). -/

namespace Sys2Proof.Machine

/-- One `CYCLE`: the gate, `display_changed <- 0`, fetch, decode, execute with the program-counter update, and the tick (R91). -/
def step (s : State) : Host.Outcome State Fault Refusal :=
  if runnable s then
    match fetchDecode (beginCycle s) with
    | .error t => .next t
    | .ok i =>
      match exec i (beginCycle s) with
      | .next t => .next (finishCycle t)
      | .fault r => .fault r
      | .refused r => .refused r
  else .next (noopCycle s)

/-- `s` with the instruction word `w` of `nbits` bits (bit 0 the least significant) where the next `step` fetches. -/
def State.withFetchWord (s : State) (nbits w : Nat) : State := placeWord s nbits w

end Sys2Proof.Machine
end

