-- ==== Sys2Proof/Machine/HostPorts.lean ====
section
/-! DEFINITION. The host transactions (spec/10_state.md R30 to R36; spec/70_reset_and_hazards.md R220 to R225): what the host can do to the core
between two cycles. `CYCLE` is `step`; `INIT` is `init` (Ops.lean). -/

namespace Sys2Proof.Machine

/-- What the status reads return (R35): `display_changed`, `beep`, `loaded`, `halted` and the fault record's four fields. -/
structure Status where
  displayChanged : Bool
  beep           : Bool
  loaded         : Bool
  halted         : Bool
  faultCode      : BitVec 3
  faultPc        : Word
  faultOpcode    : Word
  faultInfo      : Word
  deriving DecidableEq, Repr

/-- The transactions of R30 to R35. `KEY_WRITE` takes one of the 16 keys (R34: "for `k` in 0 to 15"). -/
inductive Transaction where
  | init
  | load (bytes : List Byte)
  | cycle
  | keyWrite (k : Fin 16) (b : Bool)
  | fbRead
  | statusRead
  deriving DecidableEq, Repr

/-- What a transaction answers to the host. -/
inductive Response where
  /-- `INIT`, `CYCLE` and `KEY_WRITE` have no result (R30, R32, R34). -/
  | done
  /-- `LOAD` succeeded (R223). -/
  | ok
  /-- `LOAD` of more than 3584 bytes (R204, R224): no fault of the core, and no state has changed. -/
  | loadTooLarge
  /-- The 2048 pixel values, row-major (R20, R35). -/
  | pixels (p : List Bool)
  /-- The status values (R35). -/
  | status (st : Status)
  deriving DecidableEq, Repr

/-- `LOAD(bytes)` (R223 to R225): rejected whole when it is too large; else it writes the image at 0x200 and sets `loaded`, and touches
nothing else, not even `pc` or `halted`. -/
def load (bytes : List Byte) (s : State) : State × Response :=
  if imageWellFormed bytes then ({ s.setBytes Config.progBase bytes with loaded := true }, .ok)
  else (s, .loadTooLarge)

/-- `KEY_WRITE(k, b)` (R34): `key[k] <- b`, nothing else. -/
def keyWrite (k : Fin 16) (b : Bool) (s : State) : State := { s with key := s.key.set k.val b }

/-- `FB_READ` (R35): the pixels in row-major order, index `64 * y + x` (R20). -/
def fbRead (s : State) : List Bool := (s.fb.toList.map Vector.toList).flatten

/-- The status reads (R35). -/
def statusRead (s : State) : Status where
  displayChanged := s.displayChanged
  beep := s.beep
  loaded := s.loaded
  halted := s.halted
  faultCode := s.fault.code.toBits
  faultPc := s.fault.pc
  faultOpcode := s.fault.opcode
  faultInfo := s.fault.info

/-- One host transaction: the state after it and its answer. Transactions never overlap (spec/00_scope.md R8). -/
def transact (x : Transaction) (s : State) : Host.Outcome (State × Response) Fault Refusal :=
  match x with
  | .init => .next (init s, .done)
  | .load bytes => .next (load bytes s)
  | .cycle =>
    match step s with
    | .next t => .next (t, .done)
    | .fault r => .fault r
    | .refused r => .refused r
  | .keyWrite k b => .next (keyWrite k b s, .done)
  | .fbRead => .next (s, .pixels (fbRead s))
  | .statusRead => .next (s, .status (statusRead s))

end Sys2Proof.Machine
end

