-- ==== Sys2Proof/Safety.lean ====
section
/-! DEFINITION. What a safe run is and the terms claims are stated in: the invariants of the core, the states a run can reach, and the
parts of the state that an instruction keeps. -/

namespace Sys2Proof.Machine

/-- A state that has not gone wrong: reaching `halted` = 1 is "never ... normal termination" (spec/60_exceptions.md R195). -/
def State.safe (s : State) : Prop := s.halted = false

/-- The memory list is in its canonical form. -/
def State.memoryCanonical (s : State) : Prop := Memory.wf s.font s.mem = true

/-- The three states of R24, and no other: a halted core has a program loaded. -/
def State.controlLegal (s : State) : Prop := s.halted = true → s.loaded = true

/-- The fault record is written exactly while the core is halted (R25). -/
def State.recordLegal (s : State) : Prop := s.halted = false ↔ s.fault = FaultRecord.clear

/-- `pc` is at most 0x10FE, and every live stack entry is the address of a `2NNN` that could be fetched (R14, R104). -/
def State.addressesBounded (s : State) : Prop :=
  s.pc.toNat ≤ 0x10FE ∧ ∀ k : Fin 16, k.val < s.sp.val → (s.stack[k.val]).toNat ≤ 0xFFE

/-- The states a block with some `FONT` can be in: `INIT`, then any host transactions (R222, R8). -/
inductive Reachable : State → Prop where
  | reset (font : Vector Byte 80) : Reachable (State.resetWith font)
  | transact {s t : State} {x : Transaction} {r : Response} :
      Reachable s → transact x s = .next (t, r) → Reachable t

/-! ### What an instruction keeps -/

/-- Every register outside `W` keeps its value. -/
def keepsRegs (W : Reg → Prop) (s t : State) : Prop := ∀ r, ¬ W r → t.reg r = s.reg r

/-- Every register keeps its value. -/
def keepsAllRegs (s t : State) : Prop := ∀ r, t.reg r = s.reg r

/-- The call stack and its pointer are unchanged. -/
def keepsStack (s t : State) : Prop := t.sp = s.sp ∧ t.stack = s.stack

/-- Both timers are unchanged. -/
def keepsTimers (s t : State) : Prop := t.DT = s.DT ∧ t.ST = s.ST

/-- The pixels and `display_changed` are unchanged. -/
def keepsDisplay (s t : State) : Prop := t.fb = s.fb ∧ t.displayChanged = s.displayChanged

/-- Every byte of memory outside `W` reads as before. -/
def keepsMemory (W : Nat → Prop) (s t : State) : Prop := ∀ a, ¬ W a → t.byteAt a = s.byteAt a

/-- Every byte of memory reads as before. -/
def keepsAllMemory (s t : State) : Prop := ∀ a, t.byteAt a = s.byteAt a

/-- The keypad, `loaded`, `halted`, the fault record, `beep` and the block's `FONT` are unchanged. -/
def keepsControl (s t : State) : Prop :=
  t.key = s.key ∧ t.loaded = s.loaded ∧ t.halted = s.halted ∧ t.fault = s.fault ∧ t.beep = s.beep ∧ t.font = s.font

/-- No random byte was drawn. -/
def keepsDraws (s t : State) : Prop := t.draws = s.draws

/-- The frame of an instruction that writes only registers of `W` (and `pc`): everything else is unchanged. -/
def onlyRegs (W : Reg → Prop) (s t : State) : Prop :=
  keepsRegs W s t ∧ t.I = s.I ∧ keepsStack s t ∧ keepsTimers s t ∧ keepsDisplay s t ∧ keepsAllMemory s t ∧
    keepsControl s t ∧ keepsDraws s t

/-- The frame of an instruction that writes `pc` and nothing else. -/
def onlyPc (s t : State) : Prop := onlyRegs (fun _ => False) s t

/-- The frame of an instruction that writes the call stack or `sp` (and `pc`): everything else is unchanged. -/
def onlyStack (s t : State) : Prop :=
  keepsAllRegs s t ∧ t.I = s.I ∧ keepsTimers s t ∧ keepsDisplay s t ∧ keepsAllMemory s t ∧ keepsControl s t ∧ keepsDraws s t

/-- The frame of an instruction that writes `I` and registers of `W` (and `pc`): everything else is unchanged. -/
def onlyIndex (W : Reg → Prop) (s t : State) : Prop :=
  keepsRegs W s t ∧ keepsStack s t ∧ keepsTimers s t ∧ keepsDisplay s t ∧ keepsAllMemory s t ∧ keepsControl s t ∧
    keepsDraws s t

/-- The frame of an instruction that writes bytes at the addresses of `W` (and `pc`): everything else is unchanged. -/
def onlyMemory (W : Nat → Prop) (s t : State) : Prop :=
  keepsAllRegs s t ∧ t.I = s.I ∧ keepsStack s t ∧ keepsTimers s t ∧ keepsDisplay s t ∧ keepsMemory W s t ∧
    keepsControl s t ∧ keepsDraws s t

/-- The frame of an instruction that writes the display and registers of `W` (and `pc`): everything else is unchanged. -/
def onlyDisplay (W : Reg → Prop) (s t : State) : Prop :=
  keepsRegs W s t ∧ t.I = s.I ∧ keepsStack s t ∧ keepsTimers s t ∧ keepsAllMemory s t ∧ keepsControl s t ∧ keepsDraws s t

/-! ### Tables of the spec that claims are held against -/

/-- The fields `OP`, `X`, `Y`, `N`, `NN`, `NNN` of a word (R61). -/
def wordFields (w : Word) : BitVec 4 × Reg × Reg × Nibble × Byte × Addr :=
  (opField w, xField w, yField w, nField w, nnField w, nnnField w)

/-- The encoding line of an instruction's rule: "mask ..., match ...". -/
abbrev encodesAs (i : Instr) (mask value : Word) : Prop := encode i &&& mask = value

/-- A fault taken at the state `s` of an executing instruction: the record, `halted` and `beep`, nothing else (R91's `FAULT`). -/
def faulted (s : State) (code : FaultCode) (opcode info : Word) : State :=
  { s with fault := ⟨code, s.pc, opcode, info⟩, halted := true, beep := false }

/-- The lowest out-of-range address of a data access from `I` on: `max(I, 0x1000)` (R190). -/
def lowestOutside (s : State) : Word := if s.I.toNat < 0x1000 then 0x1000 else s.I

/-- The values of R37 after `INIT`, on a block whose `FONT` is `font`. -/
def resetValues (font : Vector Byte 80) (t : State) : Prop :=
  (∀ r, t.reg r = 0) ∧ t.I = 0 ∧ t.pc = 0x200 ∧ t.sp = 0 ∧ (∀ k : Fin 16, t.stack[k.val] = 0) ∧ t.DT = 0 ∧ t.ST = 0 ∧
    (∀ y x, t.fb.pixel y x = false) ∧ t.displayChanged = false ∧ (∀ k, t.keyAt k = false) ∧ t.loaded = false ∧
    t.halted = false ∧ t.fault = ⟨.noFault, 0, 0, 0⟩ ∧ t.beep = false ∧
    (∀ k : Fin 80, t.byteAt (0x050 + k.val) = font[k.val]) ∧
    (∀ a, a < 0x050 ∨ 0x0A0 ≤ a → t.byteAt a = 0)

/-- The sprite bit that lands on pixel `(y, x)` when `n` rows are drawn from `(y0, x0)` on: bit `7 - col` of the byte at `I + row` with
`row = y - y0` and `col = x - x0` (R161). -/
def spriteBit (s : State) (n y0 x0 y x : Nat) : Bool :=
  decide (y0 ≤ y) && decide (y < y0 + n) && decide (x0 ≤ x) && decide (x < x0 + 8) &&
    (s.byteAt (s.effectiveAddress (y - y0))).getLsbD (7 - (x - x0))

/-- The table of R190 in the order of R197: the fault that the next executed cycle raises, as code, `fault.opcode` and `fault.info`. -/
def listedFault (s : State) : Option (FaultCode × Word × Word) :=
  if 0xFFE < s.pc.toNat then
    some (.memoryOutOfRange, 0, if 0xFFF < s.pc.toNat then s.pc else s.pc + 1)
  else
    let w := wordOfBytes (s.byteAt s.pc.toNat) (s.byteAt (s.pc.toNat + 1))
    let outside (n : Nat) : Option (FaultCode × Word × Word) :=
      if 0 < n ∧ 0xFFF < s.I.toNat + n - 1 then some (.memoryOutOfRange, w, lowestOutside s) else none
    let badKey (x : Reg) : Option (FaultCode × Word × Word) :=
      if 15 < (s.reg x).toNat then some (.keyIndexOutOfRange, w, zextByte (s.reg x)) else none
    match decodeWord w with
    | .error _ => some (.unknownInstruction, w, 0)
    | .ok .ret => if s.sp.val = 0 then some (.stackUnderflow, 0x00EE, 0) else none
    | .ok (.call _) => if s.sp.val = 16 then some (.stackOverflow, w, 0) else none
    | .ok (.drw _ _ n) => outside n.toNat
    | .ok (.ldB _) => outside 3
    | .ok (.stRegs x) | .ok (.ldRegs x) => outside (x.val + 1)
    | .ok (.skp x) | .ok (.sknp x) => badKey x
    | .ok _ => none

/-- The registers an instruction reads (R12's columns "r" and "V[0] implicit"). -/
def readsReg (i : Instr) (r : Reg) : Prop :=
  match i with
  | .seImm x _ | .sneImm x _ | .addImm x _ => r = x
  | .seReg x y | .sneReg x y | .or x y | .and x y | .xor x y | .addReg x y | .sub x y | .subn x y | .drw x y _ =>
    r = x ∨ r = y
  | .ldReg _ y => r = y
  | .shr x _ | .shl x _ | .skp x | .sknp x | .ldDtVx x | .ldStVx x | .ldF x | .ldB x | .addI x => r = x
  | .jpV0 _ => r = 0
  | .stRegs x => r ≤ x
  | .cls | .ret | .jp _ | .call _ | .ldI _ | .ldImm _ _ | .rnd _ _ | .ldVxDt _ | .ldVxK _ | .ldRegs _ => False

/-- The registers an instruction writes (R12's columns "w", "VF as flag" and "V[0..X] run"). -/
def writesReg (i : Instr) (r : Reg) : Prop :=
  match i with
  | .ldImm x _ | .addImm x _ | .ldReg x _ | .or x _ | .and x _ | .xor x _ | .rnd x _ | .ldVxDt x | .ldVxK x => r = x
  | .addReg x _ | .sub x _ | .subn x _ | .shr x _ | .shl x _ => r = x ∨ r = regF
  | .drw _ _ _ | .addI _ => r = regF
  | .ldRegs x => r ≤ x
  | .cls | .ret | .jp _ | .call _ | .ldI _ | .seImm _ _ | .sneImm _ _ | .seReg _ _ | .sneReg _ _ | .jpV0 _ | .skp _
  | .sknp _ | .ldDtVx _ | .ldStVx _ | .ldF _ | .ldB _ | .stRegs _ => False

/-- The pc that a completing instruction leaves (R15), with `p` the pc at fetch. -/
def pcAfter (i : Instr) (s : State) : Word :=
  let skip (c : Prop) [Decidable c] : Word := if c then s.pc + 4 else s.pc + 2
  match i with
  | .jp nnn | .call nnn => zextAddr nnn
  | .jpV0 nnn => zextAddr nnn + zextByte (s.reg 0)
  | .ret => (s.stack[(s.sp.val - 1) % 16]'(Nat.mod_lt _ (by omega))) + 2
  | .seImm x nn => skip (s.reg x = nn)
  | .sneImm x nn => skip (s.reg x ≠ nn)
  | .seReg x y => skip (s.reg x = s.reg y)
  | .sneReg x y => skip (s.reg x ≠ s.reg y)
  | .skp x => skip (∃ k : Fin 16, k.val = (s.reg x).toNat ∧ s.keyAt k = true)
  | .sknp x => skip (∃ k : Fin 16, k.val = (s.reg x).toNat ∧ s.keyAt k = false)
  | .ldVxK _ => if ∀ k, s.keyAt k = false then s.pc else s.pc + 2
  | .cls | .ldImm _ _ | .addImm _ _ | .ldReg _ _ | .or _ _ | .and _ _ | .xor _ _ | .addReg _ _ | .sub _ _ | .shr _ _
  | .subn _ _ | .shl _ _ | .ldI _ | .rnd _ _ | .drw _ _ _ | .ldVxDt _ | .ldDtVx _ | .ldStVx _ | .addI _ | .ldF _ | .ldB _
  | .stRegs _ | .ldRegs _ => s.pc + 2

end Sys2Proof.Machine
end

