-- ==== Sys2Proof/Certificates/Slice0/Obligations.lean ====
section
/-! DEFINITION. The statements for the provers. Each docstring names the rules of spec/ that it formalises. A statement about what an instruction
does concludes that `exec` answers a NEXT state with the result and the frame the rule gives; the frames (`onlyRegs` and the like) and the
tables of the spec (`listedFault`, `pcAfter`, `readsReg`, `writesReg`) stand in Safety.lean. -/

open Sys2Proof
open Sys2Proof.Machine

/-! ### Encoding (spec/30_encoding.md) -/

/-- R70's ten worked decodes, a table that the spec marks as derived from R61 to R65: the bytes, the fields, and the row or the
rejection. -/
def Obligations.WorkedDecodesOfTheSpec : Prop :=
  (decode [0x00, 0xE0] = .ok (.cls, []) ∧ wordFields 0x00E0 = (0x0, 0x0, 0xE, 0x0, 0xE0, 0x0E0)) ∧
  (decode [0x12, 0x34] = .ok (.jp 0x234, []) ∧ wordFields 0x1234 = (0x1, 0x2, 0x3, 0x4, 0x34, 0x234)) ∧
  (decode [0x6A, 0xFF] = .ok (.ldImm 0xA 0xFF, []) ∧ wordFields 0x6AFF = (0x6, 0xA, 0xF, 0xF, 0xFF, 0xAFF)) ∧
  (decode [0x8A, 0xB4] = .ok (.addReg 0xA 0xB, []) ∧ wordFields 0x8AB4 = (0x8, 0xA, 0xB, 0x4, 0xB4, 0xAB4)) ∧
  (decode [0x8A, 0xB8] = .error (.unknownInstruction 0x8AB8) ∧ wordFields 0x8AB8 = (0x8, 0xA, 0xB, 0x8, 0xB8, 0xAB8)) ∧
  (decode [0xD0, 0x15] = .ok (.drw 0x0 0x1 0x5, []) ∧ wordFields 0xD015 = (0xD, 0x0, 0x1, 0x5, 0x15, 0x015)) ∧
  (decode [0xF3, 0x65] = .ok (.ldRegs 0x3, []) ∧ wordFields 0xF365 = (0xF, 0x3, 0x6, 0x5, 0x65, 0x365)) ∧
  (decode [0x51, 0x21] = .error (.unknownInstruction 0x5121) ∧ wordFields 0x5121 = (0x5, 0x1, 0x2, 0x1, 0x21, 0x121)) ∧
  (decode [0x00, 0x00] = .error (.unknownInstruction 0x0000) ∧ wordFields 0x0000 = (0x0, 0x0, 0x0, 0x0, 0x00, 0x000)) ∧
  (decode [0xE1, 0x9E] = .ok (.skp 0x1, []) ∧ wordFields 0xE19E = (0xE, 0x1, 0x9, 0xE, 0x9E, 0x19E))

/-- Decoding the bytes of any instruction, whatever follows them, gives the instruction back and leaves what follows
(R60, R62, R65): no operand bit of any of the 34 encodings is dropped. -/
def Obligations.DecodeGivesBackEveryEncoding : Prop :=
  ∀ (i : Instr) (rest : List Byte), decode (encodeBytes i ++ rest) = .ok (i, rest)

/-- The other direction: a word that decodes is the encoding of the instruction it decodes to, so each word has one meaning and
each instruction one word (R61 to R65). -/
def Obligations.EncodeGivesBackEveryDecodedWord : Prop :=
  ∀ (w : Word) (i : Instr), decodeWord w = .ok i → encode i = w

/-- R64: a word that decodes does so as the unique row of the opcode map with `(w & mask) = match`; a word that some row selects does
decode, as that row, and no other row selects it; and a word that matches no row is the unknown instruction. -/
def Obligations.DispatchSelectsTheUniqueRow : Prop :=
  ∀ w : Word,
    (∀ i, decodeWord w = .ok i →
      ∃ row ∈ opcodeTable, row.selects w = true ∧ row.mnemonic = i.mnemonic ∧
        ∀ other ∈ opcodeTable, other.selects w = true → other = row) ∧
    (∀ row ∈ opcodeTable, row.selects w = true →
      (∃ i, decodeWord w = .ok i ∧ i.mnemonic = row.mnemonic) ∧
        ∀ other ∈ opcodeTable, other.selects w = true → other = row) ∧
    ((∀ row ∈ opcodeTable, row.selects w = false) → decodeWord w = .error (.unknownInstruction w))

/-- R66's six groups: exactly these words are unknown instructions. -/
def Obligations.UnknownWordsAreTheSixGroups : Prop :=
  ∀ w : Word, decodeWord w = .error (.unknownInstruction w) ↔
    (opField w = 0x0 ∧ w ≠ 0x00E0 ∧ w ≠ 0x00EE) ∨
    (opField w = 0x5 ∧ nField w ≠ 0) ∨
    (opField w = 0x8 ∧ nField w ∈ ([0x8, 0x9, 0xA, 0xB, 0xC, 0xD, 0xF] : List Nibble)) ∨
    (opField w = 0x9 ∧ nField w ≠ 0) ∨
    (opField w = 0xE ∧ nnField w ∉ ([0x9E, 0xA1] : List Byte)) ∨
    (opField w = 0xF ∧ nnField w ∉ ([0x07, 0x0A, 0x15, 0x18, 0x1E, 0x29, 0x33, 0x55, 0x65] : List Byte))

/-! ### Reset and the host transactions (spec/10_state.md, spec/70_reset_and_hazards.md) -/

/-- R37's table: `INIT` in any state leaves these values, for whatever `FONT` the block has, and so does power-on. The state the model
starts from is the one with the spec's default `FONT` (log entry 1). -/
def Obligations.InitLeavesTheResetValues : Prop :=
  (∀ s, resetValues s.font (init s)) ∧ (∀ font, resetValues font (State.resetWith font))

/-- R220: `INIT` is legal in every state, is idempotent, and leaves the core unloaded, where `CYCLE` does nothing.
(`INIT` keeps the model's own fields `font` and `draws`, log entry 7.) -/
def Obligations.InitIsIdempotentAndUnloads : Prop :=
  ∀ s, transact .init s = .next (init s, .done) ∧ init (init s) = init s ∧ resetValues s.font (init s) ∧
    step (init s) = .next (init s)

/-- R223, R225: a `LOAD` of at most 3584 bytes answers ok, writes byte `k` of the image to 0x200 + k and sets `loaded`; no other byte of
memory changes, and no other state at all (not `pc`, not `halted`, not the fault record). -/
def Obligations.LoadStoresTheImageAndNothingElse : Prop :=
  ∀ (s : State) (bytes : List Byte), s.memoryCanonical → bytes.length ≤ 3584 →
    ∃ t, transact (.load bytes) s = .next (t, .ok) ∧ t.loaded = true ∧
      (∀ (k : Nat) (h : k < bytes.length), t.byteAt (0x200 + k) = bytes[k]) ∧
      (∀ a, a < 0x200 ∨ 0x200 + bytes.length ≤ a → t.byteAt a = s.byteAt a) ∧
      { t with mem := s.mem, loaded := s.loaded } = s

/-- R224: a `LOAD` of more than 3584 bytes changes no state at all and returns `LoadTooLarge`. -/
def Obligations.OversizedLoadIsRejectedWhole : Prop :=
  ∀ (s : State) (bytes : List Byte), 3584 < bytes.length → transact (.load bytes) s = .next (s, .loadTooLarge)

/-- R34: `KEY_WRITE(k, b)` sets `key[k] <- b` and nothing else, in every state. -/
def Obligations.KeyWriteSetsOneKey : Prop :=
  ∀ (s : State) (k : Fin 16) (b : Bool),
    ∃ t, transact (.keyWrite k b) s = .next (t, .done) ∧ t.keyAt k = b ∧ (∀ j, j ≠ k → t.keyAt j = s.keyAt j) ∧
      { t with key := s.key } = s

/-- R35: `FB_READ` returns the 2048 pixel values, row-major, and the status read returns the five status items; neither changes
anything. The form of the two answers is the model's choice (log entry 22). -/
def Obligations.ReadsReturnTheStateAndChangeNothing : Prop :=
  ∀ s : State,
    (∃ p, transact .fbRead s = .next (s, .pixels p) ∧ p.length = 2048 ∧
      ∀ y x, y < 32 → x < 64 → p[64 * y + x]? = some (s.fb.pixel y x)) ∧
    (∃ st, transact .statusRead s = .next (s, .status st) ∧ st.displayChanged = s.displayChanged ∧ st.beep = s.beep ∧
      st.loaded = s.loaded ∧ st.halted = s.halted ∧ st.faultCode = s.fault.code.toBits ∧ st.faultPc = s.fault.pc ∧
      st.faultOpcode = s.fault.opcode ∧ st.faultInfo = s.fault.info)

/-! ### The cycle (spec/40_cycle.md) -/

/-- R81, R32: with `loaded` = 0 or `halted` = 1 a cycle changes nothing but the output `beep`, which reads 0. -/
def Obligations.NoopCycleChangesNothing : Prop :=
  ∀ s : State, s.loaded = false ∨ s.halted = true → step s = .next { s with beep := false }

/-- R80 to R91: when the two bytes at `pc` decode to `i`, the cycle clears `display_changed`, runs `exec i`, and then ticks, unless the
instruction faulted. -/
def Obligations.StepRunsTheDecodedInstruction : Prop :=
  ∀ (s : State) (i : Instr), s.loaded = true → s.halted = false → s.pc.toNat ≤ 0xFFE →
    decode [s.byteAt s.pc.toNat, s.byteAt (s.pc.toNat + 1)] = .ok (i, []) →
    step s = match exec i { s with displayChanged := false } with
      | .next t => .next (if t.halted then t else tick t)
      | .fault r => .fault r
      | .refused r => .refused r

/-- R46: the fetch is big-endian, at any `pc`, even or odd, whose two bytes lie in the array; else it raises `MemoryOutOfRange` with `pc`,
or with `pc + 1` when `pc` is the last byte. -/
def Obligations.FetchIsBigEndianAndRangeChecked : Prop :=
  ∀ s : State,
    (s.pc.toNat ≤ 0xFFE → ∃ w, s.fetchWord = .ok w ∧
      w.toNat = 256 * (s.byteAt s.pc.toNat).toNat + (s.byteAt (s.pc.toNat + 1)).toNat) ∧
    (0xFFE < s.pc.toNat → s.fetchWord = .error (if 0xFFF < s.pc.toNat then s.pc else s.pc + 1))

/-- R191: a fetched word that matches no row raises `UnknownInstruction`: `fault.opcode` is the full word, `fault.pc` the address it
was fetched from, and the core halts with nothing else changed. -/
def Obligations.UnknownWordHaltsNamingTheWord : Prop :=
  ∀ (s : State) (w : Word), s.loaded = true → s.halted = false → s.fetchWord = .ok w →
    (∀ row ∈ opcodeTable, row.selects w = false) →
    step s = .next { s with displayChanged := false, beep := false, halted := true,
                            fault := ⟨.unknownInstruction, s.pc, w, 0⟩ }

/-- R88: the tick reports whether `ST` was nonzero before it, counts both timers down by one, saturating at zero, and changes
nothing else. -/
def Obligations.TickCountsDownAndBeeps : Prop :=
  ∀ s : State, (tick s).DT.toNat = s.DT.toNat - 1 ∧ (tick s).ST.toNat = s.ST.toNat - 1 ∧
    ((tick s).beep = true ↔ s.ST ≠ 0) ∧ { tick s with DT := s.DT, ST := s.ST, beep := s.beep } = s

/-- R88, R89, R227: after `k` ticks with no other write the timers read `max(n - k, 0)`, and `beep` is 1 after exactly the first `ST` of
them. -/
def Obligations.TimersCountCyclesAndBeepLastsSTCycles : Prop :=
  ∀ (s : State) (k : Nat), (tick^[k] s).DT.toNat = s.DT.toNat - k ∧ (tick^[k] s).ST.toNat = s.ST.toNat - k ∧
    (tick^[k + 1] s).beep = decide (k < s.ST.toNat)

/-- R88, R90, R91 in one cycle: a cycle that executes an instruction without a fault ends with the timers that the instruction left
ticked once (so `FX15` with `VX = n` ends with `DT = n - 1`, R176), and one that faults leaves them unticked. -/
def Obligations.EveryCompletedCycleTicksOnce : Prop :=
  ∀ (s t : State) (i : Instr), s.loaded = true → s.halted = false → s.fetchWord = .ok (encode i) → step s = .next t →
    (t.halted = true → t.DT = s.DT ∧ t.ST = s.ST ∧ t.beep = false) ∧
    (t.halted = false →
      ((∀ x, i ≠ .ldDtVx x) → t.DT.toNat = s.DT.toNat - 1) ∧
      ((∀ x, i ≠ .ldStVx x) → t.ST.toNat = s.ST.toNat - 1 ∧ t.beep = (s.ST != 0)) ∧
      (∀ x, i = .ldDtVx x → t.DT.toNat = (s.reg x).toNat - 1) ∧
      (∀ x, i = .ldStVx x → t.ST.toNat = (s.reg x).toNat - 1 ∧ t.beep = (s.reg x != 0)))

/-- Every instruction and every cycle answers a next state: it "either completes or raises a listed fault"
(spec/93_implementation_defined.md). That a fault, too, is a NEXT state, the halted one, and that no step ends in the interface's
fault or refusal, is the model's choice (log entry 3): `00EE` with an empty stack answers next by faulting. -/
def Obligations.EveryInstructionAndEveryCycleAnswersNext : Prop :=
  (∀ (i : Instr) (s : State), ∃ t, exec i s = .next t) ∧ (∀ s, ∃ t, step s = .next t)

/-- `withFetchWord` places the table's word where the next step fetches it, and the machine runs exactly the instruction it decodes to
(the model's own loading of a program, log entry 6). -/
def Obligations.PlacedWordIsTheNextInstruction : Prop :=
  ∀ (s : State) (w : Nat) (i : Instr), s.memoryCanonical → decodeTableWord 16 w = some i →
    runnable (s.withFetchWord 16 w) = true ∧
      fetchDecode (beginCycle (s.withFetchWord 16 w)) = .ok i

/-! ### Faults (spec/60_exceptions.md) -/

/-- R195: fault entry is precise. When an executed cycle ends halted, everything but `display_changed`, `beep`, `halted` and the record
is as it was when the cycle began (so the tick is skipped), the record holds the fault that the table of R190 names, at the
instruction's own pc, and every later cycle is a no-op that keeps the record. -/
def Obligations.FaultEntryIsPrecise : Prop :=
  ∀ s t : State, s.loaded = true → s.halted = false → step s = .next t → t.halted = true →
    t = { s with displayChanged := false, beep := false, halted := true, fault := t.fault } ∧
      (∃ code opcode info, listedFault s = some (code, opcode, info) ∧ code ≠ .noFault ∧
        t.fault = ⟨code, s.pc, opcode, info⟩) ∧
      step t = .next t

/-- R190, R197: an executed cycle faults exactly when the table says so, with the table's code, opcode and info; otherwise it does not
halt and leaves the record alone. -/
def Obligations.FaultsAreExactlyTheListedOnes : Prop :=
  ∀ s : State, s.loaded = true → s.halted = false →
    ∃ t, step s = .next t ∧
      match listedFault s with
      | some (code, opcode, info) => t = faulted { s with displayChanged := false } code opcode info
      | none => t.halted = false ∧ t.fault = s.fault

/-- R199, R24: no run of a halted core gets anywhere, and no transaction but `INIT` leaves the halted state or touches the record;
`INIT` clears both. -/
def Obligations.OnlyInitLeavesTheHaltedState : Prop :=
  ∀ s : State, s.halted = true →
    (∀ n, Sys2Proof.core.run (n + 1) s = .next { s with beep := false }) ∧
    (∀ (x : Transaction) (t : State) (r : Response), x ≠ .init → transact x s = .next (t, r) →
      t.halted = true ∧ t.fault = s.fault) ∧
    (init s).halted = false ∧ (init s).fault = FaultRecord.clear

/-! ### Invariants -/

/-- Every step keeps the memory list in its canonical form, keeps `halted` within `loaded` (R24: "loaded = 0, halted = 1 cannot arise"),
and keeps the record written exactly while the core is halted (R25). -/
def Obligations.StepKeepsMemoryControlAndRecordLegal : Prop :=
  ∀ s t : State, s.memoryCanonical → s.controlLegal → s.recordLegal → step s = .next t →
    t.memoryCanonical ∧ t.controlLegal ∧ t.recordLegal

/-- R14, R104: every step keeps `pc` at most 0x10FE (`BFFF` with V0 = 0xFF) and every live stack entry at most 0xFFE. -/
def Obligations.StepKeepsAddressesBounded : Prop :=
  ∀ s t : State, s.addressesBounded → step s = .next t → t.addressesBounded

/-- The state after reset meets all four invariants, for every `FONT`. -/
def Obligations.ResetMeetsTheInvariants : Prop :=
  ∀ font, (State.resetWith font).memoryCanonical ∧ (State.resetWith font).controlLegal ∧
    (State.resetWith font).recordLegal ∧ (State.resetWith font).addressesBounded

/-- Every host transaction, from ANY state that meets the four invariants and not only from a reachable one, leaves a state that meets
them: `INIT`, `LOAD` (while halted, and oversized, included), `CYCLE`, `KEY_WRITE` and the reads. -/
def Obligations.TransactionsKeepTheInvariants : Prop :=
  ∀ (x : Transaction) (s t : State) (r : Response),
    s.memoryCanonical → s.controlLegal → s.recordLegal → s.addressesBounded → transact x s = .next (t, r) →
      t.memoryCanonical ∧ t.controlLegal ∧ t.recordLegal ∧ t.addressesBounded

/-- The corollary over runs: whatever the host does, `LOAD`s while halted included, every reachable state meets all four invariants. -/
def Obligations.ReachableStatesMeetTheInvariants : Prop :=
  ∀ s : State, Reachable s → s.memoryCanonical ∧ s.controlLegal ∧ s.recordLegal ∧ s.addressesBounded

/-- The memory form is canonical: two memories of a block that read alike are the same list, so equal memories are equal data. -/
def Obligations.CanonicalMemoriesThatReadAlikeAreEqual : Prop :=
  ∀ (font : Vector Byte 80) (m n : Memory), Memory.wf font m = true → Memory.wf font n = true →
    (∀ a, a < 0x1000 → Memory.read font a m = Memory.read font a n) → m = n

/-! ### Whole-machine rules -/

/-- Which instructions write which state: `I` (R13), the stack (R16), the timers (R18), the pixels (R20) and `display_changed` (R21), memory
(R55), the draws (R33); no instruction writes the keypad (R22) or `loaded` (R23), or the block's `FONT`. -/
def Obligations.OnlyTheNamedInstructionsWriteEachState : Prop :=
  ∀ (i : Instr) (s t : State), exec i s = .next t →
    (i.mnemonic ∉ ["LD_I", "ADD_I", "LD_F"] → t.I = s.I) ∧
    (i.mnemonic ∉ ["CALL", "RET"] → keepsStack s t) ∧
    (i.mnemonic ≠ "LD_DT_VX" → t.DT = s.DT) ∧
    (i.mnemonic ≠ "LD_ST_VX" → t.ST = s.ST) ∧
    (i.mnemonic ∉ ["CLS", "DRW"] → keepsDisplay s t) ∧
    (i.mnemonic ∉ ["LD_B", "ST_REGS"] → keepsAllMemory s t) ∧
    (i.mnemonic ≠ "RND" → keepsDraws s t) ∧
    t.key = s.key ∧ t.loaded = s.loaded ∧ t.font = s.font

/-- R12: a register that an instruction's row does not mark as written keeps its value; and one that its row does not mark as read, marked
as written or not, has no influence: either the instruction writes it, and the next state is the same whatever the register held, or the
instruction leaves it alone (as a blocked `FX0A` and a faulting `FX65` or `DXYN` do), and it comes through in that register alone. -/
def Obligations.RegistersAreAccessedAsTabulated : Prop :=
  ∀ (i : Instr) (s : State) (r : Reg),
    ∃ t, exec i s = .next t ∧
      (¬ writesReg i r → t.reg r = s.reg r) ∧
      (¬ readsReg i r →
        (writesReg i r ∧ ∀ v : Byte, exec i (s.setReg r v) = .next t) ∨
          (t.reg r = s.reg r ∧ ∀ v : Byte, exec i (s.setReg r v) = .next (t.setReg r v)))

/-- R15: how each instruction leaves `pc`, when it completes; a faulting one leaves it unchanged. -/
def Obligations.PcAfterEachInstruction : Prop :=
  ∀ (i : Instr) (s t : State), s.halted = false → exec i s = .next t →
    t.pc = if t.halted then s.pc else pcAfter i s

/-- R21: `display_changed` is 1 after an executed cycle exactly when that cycle executed `00E0` or `DXYN` without faulting; a no-op cycle
leaves it as it was. -/
def Obligations.DisplayChangedTellsWhetherTheCycleDrew : Prop :=
  ∀ s t : State, step s = .next t →
    (s.loaded = true → s.halted = false →
      (t.displayChanged = true ↔ t.halted = false ∧
        ∃ i, s.fetchWord = .ok (encode i) ∧ (i = .cls ∨ ∃ x y n, i = .drw x y n))) ∧
    (s.loaded = false ∨ s.halted = true → t.displayChanged = s.displayChanged)

/-- R22, R18, R20: the keypad is observed by `EX9E`, `EXA1` and `FX0A` only, `ST` by no instruction, and the pixels by `DXYN` only: for
every other instruction, changing them beforehand changes nothing else afterwards. -/
def Obligations.KeypadSoundTimerAndPixelsAreUnobserved : Prop :=
  ∀ (i : Instr) (s : State), ∃ t, exec i s = .next t ∧
    (i.mnemonic ∉ ["SKP", "SKNP", "LD_VX_K"] → ∀ key, exec i { s with key := key } = .next { t with key := key }) ∧
    (i.mnemonic ≠ "LD_ST_VX" → ∀ v, exec i { s with ST := v } = .next { t with ST := v }) ∧
    (i.mnemonic ∉ ["CLS", "DRW"] → ∀ f, exec i { s with fb := f } = .next { t with fb := f })

/-- R52: a store is seen by the very next fetch. After `FX55` two neighbouring registers of the run read back as the instruction word at
their address, whatever `pc` the program goes on from. -/
def Obligations.StoresAreSeenByTheNextFetch : Prop :=
  ∀ (x : Reg) (s : State) (k : Fin 16) (k' : Fin 16), s.memoryCanonical → k'.val = k.val + 1 → k'.val ≤ x.val →
    s.I.toNat + x.val ≤ 0xFFF →
    ∃ t, exec (.stRegs x) s = .next t ∧
      ∀ u : State, u.mem = t.mem → u.font = t.font → u.pc.toNat = s.I.toNat + k.val →
        ∃ w, u.fetchWord = .ok w ∧ w.toNat = 256 * (s.reg k).toNat + (s.reg k').toNat

/-! ### Control transfer (spec/41_control_flow.md) -/

/-- R101. -/
def Obligations.JumpGoesToTheTarget : Prop :=
  ∀ (nnn : Addr) (s : State), encodesAs (.jp nnn) 0xF000 0x1000 ∧
    ∃ t, exec (.jp nnn) s = .next t ∧ t.pc.toNat = nnn.toNat ∧ onlyPc s t

/-- R102: the address of the `2NNN` itself is pushed; with all 16 entries in use nothing is pushed and `StackOverflow` is raised. -/
def Obligations.CallPushesItsOwnAddress : Prop :=
  ∀ (nnn : Addr) (s : State), encodesAs (.call nnn) 0xF000 0x2000 ∧
    (s.sp.val < 16 →
      ∃ t, exec (.call nnn) s = .next t ∧ t.pc.toNat = nnn.toNat ∧ t.sp.val = s.sp.val + 1 ∧
        (∀ k : Fin 16, t.stack[k.val] = if k.val = s.sp.val then s.pc else s.stack[k.val]) ∧ onlyStack s t) ∧
    (s.sp.val = 16 → exec (.call nnn) s = .next (faulted s .stackOverflow (encode (.call nnn)) 0))

/-- R103: the sum of `NNN` and `V0` is not reduced to 12 bits. -/
def Obligations.JumpWithOffsetAddsV0 : Prop :=
  ∀ (nnn : Addr) (s : State), encodesAs (.jpV0 nnn) 0xF000 0xB000 ∧
    ∃ t, exec (.jpV0 nnn) s = .next t ∧ t.pc.toNat = nnn.toNat + (s.reg 0).toNat ∧ onlyPc s t

/-- R104: the most recent live entry is popped, `pc` becomes it plus 2 and no entry is erased; with an empty stack `StackUnderflow` is
raised. -/
def Obligations.ReturnGoesPastThePoppedCall : Prop :=
  ∀ s : State, encodesAs .ret 0xFFFF 0x00EE ∧
    (∀ k : Fin 16, k.val + 1 = s.sp.val →
      ∃ t, exec .ret s = .next t ∧ t.pc.toNat = ((s.stack[k.val]).toNat + 2) % 65536 ∧ t.sp.val = k.val ∧
        t.stack = s.stack ∧ onlyStack s t) ∧
    (s.sp.val = 0 → exec .ret s = .next (faulted s .stackUnderflow 0x00EE 0))

/-- R105 to R108: the four register skips advance `pc` by 4 when their condition holds and by 2 when it does not, and write nothing
else. -/
def Obligations.RegisterSkipsAdvanceByFourOrTwo : Prop :=
  ∀ (x y : Reg) (nn : Byte) (s : State),
    (encodesAs (.seImm x nn) 0xF000 0x3000 ∧ ∃ t, exec (.seImm x nn) s = .next t ∧ onlyPc s t ∧
      t.pc = if s.reg x = nn then s.pc + 4 else s.pc + 2) ∧
    (encodesAs (.sneImm x nn) 0xF000 0x4000 ∧ ∃ t, exec (.sneImm x nn) s = .next t ∧ onlyPc s t ∧
      t.pc = if s.reg x ≠ nn then s.pc + 4 else s.pc + 2) ∧
    (encodesAs (.seReg x y) 0xF00F 0x5000 ∧ ∃ t, exec (.seReg x y) s = .next t ∧ onlyPc s t ∧
      t.pc = if s.reg x = s.reg y then s.pc + 4 else s.pc + 2) ∧
    (encodesAs (.sneReg x y) 0xF00F 0x9000 ∧ ∃ t, exec (.sneReg x y) s = .next t ∧ onlyPc s t ∧
      t.pc = if s.reg x ≠ s.reg y then s.pc + 4 else s.pc + 2)

/-- S9: a return reached with the stack as the call left it goes to the instruction immediately after the call and restores `sp`
(R102, R104). -/
def Obligations.CallThenReturnComesBack : Prop :=
  ∀ (nnn : Addr) (s : State), s.sp.val < 16 →
    ∃ t, exec (.call nnn) s = .next t ∧
      ∀ m : State, m.sp = t.sp → m.stack = t.stack →
        ∃ u, exec .ret m = .next u ∧ u.pc = s.pc + 2 ∧ u.sp = s.sp

/-! ### Registers (spec/42_register_alu.md) -/

/-- R121, R122: the immediate load and the wrapping immediate add, which writes no flag (`VF` changes only as the destination). -/
def Obligations.ImmediateLoadAndAdd : Prop :=
  ∀ (x : Reg) (nn : Byte) (s : State),
    (encodesAs (.ldImm x nn) 0xF000 0x6000 ∧
      ∃ t, exec (.ldImm x nn) s = .next t ∧ t.reg x = nn ∧ t.pc = s.pc + 2 ∧ onlyRegs (fun r => r = x) s t) ∧
    (encodesAs (.addImm x nn) 0xF000 0x7000 ∧
      ∃ t, exec (.addImm x nn) s = .next t ∧ (t.reg x).toNat = ((s.reg x).toNat + nn.toNat) % 256 ∧ t.pc = s.pc + 2 ∧
        onlyRegs (fun r => r = x) s t)

/-- R123 to R126: the copy and the three bitwise operations, which write no flag. -/
def Obligations.CopyAndBitwiseOperations : Prop :=
  ∀ (x y : Reg) (s : State),
    (encodesAs (.ldReg x y) 0xF00F 0x8000 ∧
      ∃ t, exec (.ldReg x y) s = .next t ∧ t.reg x = s.reg y ∧ t.pc = s.pc + 2 ∧ onlyRegs (fun r => r = x) s t) ∧
    (encodesAs (.or x y) 0xF00F 0x8001 ∧
      ∃ t, exec (.or x y) s = .next t ∧ t.reg x = s.reg x ||| s.reg y ∧ t.pc = s.pc + 2 ∧ onlyRegs (fun r => r = x) s t) ∧
    (encodesAs (.and x y) 0xF00F 0x8002 ∧
      ∃ t, exec (.and x y) s = .next t ∧ t.reg x = s.reg x &&& s.reg y ∧ t.pc = s.pc + 2 ∧ onlyRegs (fun r => r = x) s t) ∧
    (encodesAs (.xor x y) 0xF00F 0x8003 ∧
      ∃ t, exec (.xor x y) s = .next t ∧ t.reg x = s.reg x ^^^ s.reg y ∧ t.pc = s.pc + 2 ∧ onlyRegs (fun r => r = x) s t)

/-- R127: the wrapped sum and the carry, the carry written last: with X = 15 the sum is lost. -/
def Obligations.AddReportsTheCarry : Prop :=
  ∀ (x y : Reg) (s : State), encodesAs (.addReg x y) 0xF00F 0x8004 ∧
    ∃ t, exec (.addReg x y) s = .next t ∧
      (x ≠ regF → (t.reg x).toNat = ((s.reg x).toNat + (s.reg y).toNat) % 256) ∧
      t.reg regF = (if 255 < (s.reg x).toNat + (s.reg y).toNat then 1 else 0) ∧
      t.pc = s.pc + 2 ∧ onlyRegs (fun r => r = x ∨ r = regF) s t

/-- R128: the strict comparison goes to `VF` first and the difference reads its operands again, in all four cases of X and Y
being 15. -/
def Obligations.SubtractComparesStrictlyThenSubtracts : Prop :=
  ∀ (x y : Reg) (s : State), encodesAs (.sub x y) 0xF00F 0x8005 ∧
    ∃ t, exec (.sub x y) s = .next t ∧ t.pc = s.pc + 2 ∧ onlyRegs (fun r => r = x ∨ r = regF) s t ∧
      let f : Byte := if (s.reg y).toNat < (s.reg x).toNat then 1 else 0
      (x ≠ regF → y ≠ regF → (t.reg x).toNat = (256 + (s.reg x).toNat - (s.reg y).toNat) % 256 ∧ t.reg regF = f) ∧
      (x = regF → y ≠ regF → (t.reg regF).toNat = (256 + f.toNat - (s.reg y).toNat) % 256) ∧
      (x ≠ regF → y = regF → (t.reg x).toNat = (256 + (s.reg x).toNat - f.toNat) % 256 ∧ t.reg regF = f) ∧
      (x = regF → y = regF → t.reg regF = 0)

/-- R130: the reversed subtraction, with the same order of statements. -/
def Obligations.ReverseSubtractComparesStrictlyThenSubtracts : Prop :=
  ∀ (x y : Reg) (s : State), encodesAs (.subn x y) 0xF00F 0x8007 ∧
    ∃ t, exec (.subn x y) s = .next t ∧ t.pc = s.pc + 2 ∧ onlyRegs (fun r => r = x ∨ r = regF) s t ∧
      let f : Byte := if (s.reg x).toNat < (s.reg y).toNat then 1 else 0
      (x ≠ regF → y ≠ regF → (t.reg x).toNat = (256 + (s.reg y).toNat - (s.reg x).toNat) % 256 ∧ t.reg regF = f) ∧
      (x = regF → y ≠ regF → (t.reg regF).toNat = (256 + (s.reg y).toNat - f.toNat) % 256) ∧
      (x ≠ regF → y = regF → (t.reg x).toNat = (256 + f.toNat - (s.reg x).toNat) % 256 ∧ t.reg regF = f) ∧
      (x = regF → y = regF → t.reg regF = 0)

/-- R129, R131: the shifts of `VX` in place by one bit, `Y` ignored, the lost bit in `VF` first: with X = 15 the flag itself is
shifted. -/
def Obligations.ShiftsMoveTheLostBitToVF : Prop :=
  ∀ (x y : Reg) (s : State),
    (encodesAs (.shr x y) 0xF00F 0x8006 ∧
      ∃ t, exec (.shr x y) s = .next t ∧ t.pc = s.pc + 2 ∧ onlyRegs (fun r => r = x ∨ r = regF) s t ∧
        (x ≠ regF → (t.reg x).toNat = (s.reg x).toNat / 2 ∧ (t.reg regF).toNat = (s.reg x).toNat % 2) ∧
        (x = regF → t.reg regF = 0)) ∧
    (encodesAs (.shl x y) 0xF00F 0x800E ∧
      ∃ t, exec (.shl x y) s = .next t ∧ t.pc = s.pc + 2 ∧ onlyRegs (fun r => r = x ∨ r = regF) s t ∧
        (x ≠ regF → (t.reg x).toNat = 2 * (s.reg x).toNat % 256 ∧ (t.reg regF).toNat = (s.reg x).toNat / 128) ∧
        (x = regF → t.reg regF = if 128 ≤ (s.reg regF).toNat then 2 else 0))

/-- R132: `VX` receives a fresh draw under the mask, so no bit outside `NN` is ever set; the draw is the free value of
`Config.rand` (the model's own form of the port, log entry 2) and nothing is claimed of it. -/
def Obligations.RandomByteIsAFreshDrawUnderTheMask : Prop :=
  ∀ (x : Reg) (nn : Byte) (s : State), encodesAs (.rnd x nn) 0xF000 0xC000 ∧
    ∃ t, exec (.rnd x nn) s = .next t ∧ t.reg x = Config.rand s.draws &&& nn ∧ t.reg x &&& ~~~nn = 0 ∧
      t.draws = s.draws + 1 ∧ t.pc = s.pc + 2 ∧ keepsRegs (fun r => r = x) s t ∧ t.I = s.I ∧ keepsStack s t ∧
      keepsTimers s t ∧ keepsDisplay s t ∧ keepsAllMemory s t ∧ keepsControl s t

/-! ### Index register and memory (spec/43_index_memory.md) -/

/-- R140, R142: `ANNN` and `FX29` set `I`, from the immediate and to `0x050 + 5 * VX` unmasked, and touch no memory. -/
def Obligations.IndexLoadsSetI : Prop :=
  ∀ (nnn : Addr) (x : Reg) (s : State),
    (encodesAs (.ldI nnn) 0xF000 0xA000 ∧
      ∃ t, exec (.ldI nnn) s = .next t ∧ t.I.toNat = nnn.toNat ∧ t.pc = s.pc + 2 ∧ onlyIndex (fun _ => False) s t) ∧
    (encodesAs (.ldF x) 0xF0FF 0xF029 ∧
      ∃ t, exec (.ldF x) s = .next t ∧ t.I.toNat = 0x050 + 5 * (s.reg x).toNat ∧ t.pc = s.pc + 2 ∧
        onlyIndex (fun _ => False) s t)

/-- R141: `I` wraps at 65536 and `VF` reports an unwrapped sum above 0xFFF, with the old `VF` as the addend when X = 15. -/
def Obligations.IndexAddWrapsAndFlagsTheRange : Prop :=
  ∀ (x : Reg) (s : State), encodesAs (.addI x) 0xF0FF 0xF01E ∧
    ∃ t, exec (.addI x) s = .next t ∧ t.I.toNat = (s.I.toNat + (s.reg x).toNat) % 65536 ∧
      t.reg regF = (if 0xFFF < s.I.toNat + (s.reg x).toNat then 1 else 0) ∧ t.pc = s.pc + 2 ∧
      onlyIndex (fun r => r = regF) s t

/-- R143: the three decimal digits of `VX` at `I`, `I + 1`, `I + 2`; `I` above 0xFFD faults with nothing stored. -/
def Obligations.DecimalStoreWritesThreeDigits : Prop :=
  ∀ (x : Reg) (s : State), s.memoryCanonical → encodesAs (.ldB x) 0xF0FF 0xF033 ∧
    (s.I.toNat ≤ 0xFFD →
      ∃ t, exec (.ldB x) s = .next t ∧
        (t.byteAt (s.effectiveAddress 0)).toNat = (s.reg x).toNat / 100 ∧
        (t.byteAt (s.effectiveAddress 1)).toNat = (s.reg x).toNat / 10 % 10 ∧
        (t.byteAt (s.effectiveAddress 2)).toNat = (s.reg x).toNat % 10 ∧ t.pc = s.pc + 2 ∧
        onlyMemory (fun a => ∃ k, k < 3 ∧ a = s.effectiveAddress k) s t) ∧
    (0xFFD < s.I.toNat → exec (.ldB x) s = .next (faulted s .memoryOutOfRange (encode (.ldB x)) (lowestOutside s)))

/-- R146: `V[0]` to `V[X]` at `I` to `I + X`, register `k` to address `I + k`; a run that leaves the array faults with nothing stored. -/
def Obligations.RegisterStoreWritesTheRun : Prop :=
  ∀ (x : Reg) (s : State), s.memoryCanonical → encodesAs (.stRegs x) 0xF0FF 0xF055 ∧
    (s.I.toNat + x.val ≤ 0xFFF →
      ∃ t, exec (.stRegs x) s = .next t ∧ (∀ r : Reg, r ≤ x → t.byteAt (s.effectiveAddress r.val) = s.reg r) ∧
        t.pc = s.pc + 2 ∧ onlyMemory (fun a => ∃ k, k ≤ x.val ∧ a = s.effectiveAddress k) s t) ∧
    (0xFFF < s.I.toNat + x.val →
      exec (.stRegs x) s = .next (faulted s .memoryOutOfRange (encode (.stRegs x)) (lowestOutside s)))

/-- R147: `V[0]` to `V[X]` from `I` to `I + X`, the registers above X unchanged; a run that leaves the array faults with no register
changed. -/
def Obligations.RegisterLoadReadsTheRun : Prop :=
  ∀ (x : Reg) (s : State), encodesAs (.ldRegs x) 0xF0FF 0xF065 ∧
    (s.I.toNat + x.val ≤ 0xFFF →
      ∃ t, exec (.ldRegs x) s = .next t ∧ (∀ r : Reg, r ≤ x → t.reg r = s.byteAt (s.effectiveAddress r.val)) ∧
        t.pc = s.pc + 2 ∧ onlyRegs (fun r => r ≤ x) s t) ∧
    (0xFFF < s.I.toNat + x.val →
      exec (.ldRegs x) s = .next (faulted s .memoryOutOfRange (encode (.ldRegs x)) (lowestOutside s)))

/-- S8 (R146, R147, R148): storing `V[0..X]` and loading them back restores them, whatever the registers hold in between, and leaves `I`
as it was. -/
def Obligations.StoreThenLoadRestoresTheRegisters : Prop :=
  ∀ (x : Reg) (s : State), s.memoryCanonical → s.I.toNat + x.val ≤ 0xFFF →
    ∃ t, exec (.stRegs x) s = .next t ∧
      ∀ V : Vector Byte 16, ∃ u, exec (.ldRegs x) { t with V := V } = .next u ∧
        (∀ r : Reg, u.reg r = if r ≤ x then s.reg r else V[r.val]) ∧ u.I = s.I

/-! ### Display (spec/44_display.md) -/

/-- R160: every pixel becomes 0 and `display_changed` is set, even on a clear screen; `VF` is not touched. -/
def Obligations.ClearBlanksEveryPixel : Prop :=
  ∀ s : State, encodesAs .cls 0xFFFF 0x00E0 ∧
    ∃ t, exec .cls s = .next t ∧ (∀ y x, y < 32 → x < 64 → t.fb.pixel y x = false) ∧ t.displayChanged = true ∧
      t.pc = s.pc + 2 ∧ onlyDisplay (fun _ => False) s t

/-- R161: every pixel of the frame is XORed with the sprite bit that lands on it (the start wraps, the sprite is clipped), `VF` is 1 exactly
when a visible sprite bit met a set pixel, `display_changed` is set and `I` kept; a sprite whose bytes leave the array faults,
clipped rows included. -/
def Obligations.DrawXorsTheClippedSprite : Prop :=
  ∀ (x y : Reg) (n : Nibble) (s : State), encodesAs (.drw x y n) 0xF000 0xD000 ∧
    let x0 := (s.reg x).toNat % 64
    let y0 := (s.reg y).toNat % 32
    (n = 0 ∨ s.I.toNat + n.toNat - 1 ≤ 0xFFF →
      ∃ t, exec (.drw x y n) s = .next t ∧
        (∀ py px, py < 32 → px < 64 → t.fb.pixel py px = (s.fb.pixel py px ^^ spriteBit s n.toNat y0 x0 py px)) ∧
        (t.reg regF = 0 ∨ t.reg regF = 1) ∧
        (t.reg regF = 1 ↔ ∃ py px, py < 32 ∧ px < 64 ∧ spriteBit s n.toNat y0 x0 py px = true ∧
          s.fb.pixel py px = true) ∧
        t.displayChanged = true ∧ t.pc = s.pc + 2 ∧ onlyDisplay (fun r => r = regF) s t) ∧
    (0 < n.toNat → 0xFFF < s.I.toNat + n.toNat - 1 →
      exec (.drw x y n) s = .next (faulted s .memoryOutOfRange (encode (.drw x y n)) (lowestOutside s)))

/-- R161, S5: drawing the same sprite twice at the same place restores every pixel, and the second draw collides exactly when the first one
had turned a pixel on. The second draw may run in any state `m` that has the frame, the sprite and the start position of the first. -/
def Obligations.DrawingTwiceRestoresTheFrame : Prop :=
  ∀ (x y : Reg) (n : Nibble) (s : State), n = 0 ∨ s.I.toNat + n.toNat - 1 ≤ 0xFFF →
    ∃ t, exec (.drw x y n) s = .next t ∧
      ∀ m : State, m.fb = t.fb → m.I = s.I → keepsAllMemory s m →
        (m.reg x).toNat % 64 = (s.reg x).toNat % 64 → (m.reg y).toNat % 32 = (s.reg y).toNat % 32 →
        ∃ u, exec (.drw x y n) m = .next u ∧ u.fb = s.fb ∧
          (u.reg regF = 1 ↔ ∃ py px, py < 32 ∧ px < 64 ∧ s.fb.pixel py px = false ∧
            spriteBit s n.toNat ((s.reg y).toNat % 32) ((s.reg x).toNat % 64) py px = true)

/-! ### Keypad and timers (spec/45_keypad_timers.md) -/

/-- R170, R171, R172: the keypad skips test the level of key `VX`; a `VX` above 15 faults with `VX` in the record and is not masked. -/
def Obligations.KeypadSkipsTestTheKeyNamedByVX : Prop :=
  ∀ (x : Reg) (s : State),
    encodesAs (.skp x) 0xF0FF 0xE09E ∧ encodesAs (.sknp x) 0xF0FF 0xE0A1 ∧
    (∀ k : Fin 16, (s.reg x).toNat = k.val →
      (∃ t, exec (.skp x) s = .next t ∧ onlyPc s t ∧ t.pc = if s.keyAt k = true then s.pc + 4 else s.pc + 2) ∧
      (∃ t, exec (.sknp x) s = .next t ∧ onlyPc s t ∧ t.pc = if s.keyAt k = false then s.pc + 4 else s.pc + 2)) ∧
    (15 < (s.reg x).toNat →
      exec (.skp x) s = .next (faulted s .keyIndexOutOfRange (encode (.skp x)) (zextByte (s.reg x))) ∧
      exec (.sknp x) s = .next (faulted s .keyIndexOutOfRange (encode (.sknp x)) (zextByte (s.reg x))))

/-- R174: with no key pressed nothing changes and the same instruction is fetched next cycle; else `VX` receives the least pressed key. -/
def Obligations.KeyWaitRepeatsUntilAKeyIsPressed : Prop :=
  ∀ (x : Reg) (s : State), encodesAs (.ldVxK x) 0xF0FF 0xF00A ∧
    ((∀ k, s.keyAt k = false) → exec (.ldVxK x) s = .next s) ∧
    (∀ k : Fin 16, s.keyAt k = true → (∀ j, j < k → s.keyAt j = false) →
      ∃ t, exec (.ldVxK x) s = .next t ∧ (t.reg x).toNat = k.val ∧ t.pc = s.pc + 2 ∧ onlyRegs (fun r => r = x) s t)

/-- R175, R176, R177: `FX07` reads `DT` as the last tick left it, `FX15` and `FX18` write the timers. The ticks that follow, the one of the
same cycle first (see EveryCompletedCycleTicksOnce), count the written value down and give `beep` for as many of them as it says
(R88, R89; R176 marks the count over k cycles as derived from R88). -/
def Obligations.TimerInstructionsMoveTheTimers : Prop :=
  ∀ (x : Reg) (s : State),
    (encodesAs (.ldVxDt x) 0xF0FF 0xF007 ∧
      ∃ t, exec (.ldVxDt x) s = .next t ∧ t.reg x = s.DT ∧ (tick t).DT.toNat = s.DT.toNat - 1 ∧ t.pc = s.pc + 2 ∧
        onlyRegs (fun r => r = x) s t) ∧
    (encodesAs (.ldDtVx x) 0xF0FF 0xF015 ∧
      ∃ t, exec (.ldDtVx x) s = .next t ∧ t.DT = s.reg x ∧ (∀ k, (tick^[k] t).DT.toNat = (s.reg x).toNat - k) ∧
        t.ST = s.ST ∧ t.pc = s.pc + 2 ∧ keepsAllRegs s t ∧ t.I = s.I ∧ keepsStack s t ∧ keepsDisplay s t ∧
        keepsAllMemory s t ∧ keepsControl s t ∧ keepsDraws s t) ∧
    (encodesAs (.ldStVx x) 0xF0FF 0xF018 ∧
      ∃ t, exec (.ldStVx x) s = .next t ∧ t.ST = s.reg x ∧
        (∀ k, (tick^[k + 1] t).ST.toNat = (s.reg x).toNat - (k + 1) ∧
          (tick^[k + 1] t).beep = decide (k < (s.reg x).toNat)) ∧
        t.DT = s.DT ∧ t.pc = s.pc + 2 ∧ keepsAllRegs s t ∧ t.I = s.I ∧ keepsStack s t ∧ keepsDisplay s t ∧
        keepsAllMemory s t ∧ keepsControl s t ∧ keepsDraws s t)
end

