-- ==== Sys2Proof/Laws/State.lean ====
section
/-! SUPPORT. The effect of each named update on each field of State, true by rfl, and of the updates that leave registers or memory alone on
reading a register or a byte: no later proof unfolds a record update. -/

namespace Sys2Proof.Machine

/-! `setReg` -/
@[simp] theorem setReg_V (s : State) (r : Reg) (v : Byte) : (s.setReg r v).V = s.V.set r.val v := rfl
@[simp] theorem setReg_I (s : State) (r : Reg) (v : Byte) : (s.setReg r v).I = s.I := rfl
@[simp] theorem setReg_pc (s : State) (r : Reg) (v : Byte) : (s.setReg r v).pc = s.pc := rfl
@[simp] theorem setReg_sp (s : State) (r : Reg) (v : Byte) : (s.setReg r v).sp = s.sp := rfl
@[simp] theorem setReg_stack (s : State) (r : Reg) (v : Byte) : (s.setReg r v).stack = s.stack := rfl
@[simp] theorem setReg_DT (s : State) (r : Reg) (v : Byte) : (s.setReg r v).DT = s.DT := rfl
@[simp] theorem setReg_ST (s : State) (r : Reg) (v : Byte) : (s.setReg r v).ST = s.ST := rfl
@[simp] theorem setReg_fb (s : State) (r : Reg) (v : Byte) : (s.setReg r v).fb = s.fb := rfl
@[simp] theorem setReg_displayChanged (s : State) (r : Reg) (v : Byte) : (s.setReg r v).displayChanged = s.displayChanged := rfl
@[simp] theorem setReg_key (s : State) (r : Reg) (v : Byte) : (s.setReg r v).key = s.key := rfl
@[simp] theorem setReg_loaded (s : State) (r : Reg) (v : Byte) : (s.setReg r v).loaded = s.loaded := rfl
@[simp] theorem setReg_halted (s : State) (r : Reg) (v : Byte) : (s.setReg r v).halted = s.halted := rfl
@[simp] theorem setReg_fault (s : State) (r : Reg) (v : Byte) : (s.setReg r v).fault = s.fault := rfl
@[simp] theorem setReg_beep (s : State) (r : Reg) (v : Byte) : (s.setReg r v).beep = s.beep := rfl
@[simp] theorem setReg_mem (s : State) (r : Reg) (v : Byte) : (s.setReg r v).mem = s.mem := rfl
@[simp] theorem setReg_font (s : State) (r : Reg) (v : Byte) : (s.setReg r v).font = s.font := rfl
@[simp] theorem setReg_draws (s : State) (r : Reg) (v : Byte) : (s.setReg r v).draws = s.draws := rfl
@[simp] theorem setReg_byteAt (s : State) (r : Reg) (v : Byte) (d : Nat) : (s.setReg r v).byteAt d = s.byteAt d := rfl
@[simp] theorem setReg_keyAt (s : State) (r : Reg) (v : Byte) (k : Fin 16) : (s.setReg r v).keyAt k = s.keyAt k := rfl

/-! `setFlag` -/
@[simp] theorem setFlag_V (s : State) (b : Bool) : (s.setFlag b).V = s.V.set 15 (flagByte b) := rfl
@[simp] theorem setFlag_I (s : State) (b : Bool) : (s.setFlag b).I = s.I := rfl
@[simp] theorem setFlag_pc (s : State) (b : Bool) : (s.setFlag b).pc = s.pc := rfl
@[simp] theorem setFlag_sp (s : State) (b : Bool) : (s.setFlag b).sp = s.sp := rfl
@[simp] theorem setFlag_stack (s : State) (b : Bool) : (s.setFlag b).stack = s.stack := rfl
@[simp] theorem setFlag_DT (s : State) (b : Bool) : (s.setFlag b).DT = s.DT := rfl
@[simp] theorem setFlag_ST (s : State) (b : Bool) : (s.setFlag b).ST = s.ST := rfl
@[simp] theorem setFlag_fb (s : State) (b : Bool) : (s.setFlag b).fb = s.fb := rfl
@[simp] theorem setFlag_displayChanged (s : State) (b : Bool) : (s.setFlag b).displayChanged = s.displayChanged := rfl
@[simp] theorem setFlag_key (s : State) (b : Bool) : (s.setFlag b).key = s.key := rfl
@[simp] theorem setFlag_loaded (s : State) (b : Bool) : (s.setFlag b).loaded = s.loaded := rfl
@[simp] theorem setFlag_halted (s : State) (b : Bool) : (s.setFlag b).halted = s.halted := rfl
@[simp] theorem setFlag_fault (s : State) (b : Bool) : (s.setFlag b).fault = s.fault := rfl
@[simp] theorem setFlag_beep (s : State) (b : Bool) : (s.setFlag b).beep = s.beep := rfl
@[simp] theorem setFlag_mem (s : State) (b : Bool) : (s.setFlag b).mem = s.mem := rfl
@[simp] theorem setFlag_font (s : State) (b : Bool) : (s.setFlag b).font = s.font := rfl
@[simp] theorem setFlag_draws (s : State) (b : Bool) : (s.setFlag b).draws = s.draws := rfl
@[simp] theorem setFlag_byteAt (s : State) (b : Bool) (d : Nat) : (s.setFlag b).byteAt d = s.byteAt d := rfl
@[simp] theorem setFlag_keyAt (s : State) (b : Bool) (k : Fin 16) : (s.setFlag b).keyAt k = s.keyAt k := rfl

/-! `setRegRun` -/
@[simp] theorem setRegRun_I (s : State) (bs : List Byte) : (s.setRegRun bs).I = s.I := rfl
@[simp] theorem setRegRun_pc (s : State) (bs : List Byte) : (s.setRegRun bs).pc = s.pc := rfl
@[simp] theorem setRegRun_sp (s : State) (bs : List Byte) : (s.setRegRun bs).sp = s.sp := rfl
@[simp] theorem setRegRun_stack (s : State) (bs : List Byte) : (s.setRegRun bs).stack = s.stack := rfl
@[simp] theorem setRegRun_DT (s : State) (bs : List Byte) : (s.setRegRun bs).DT = s.DT := rfl
@[simp] theorem setRegRun_ST (s : State) (bs : List Byte) : (s.setRegRun bs).ST = s.ST := rfl
@[simp] theorem setRegRun_fb (s : State) (bs : List Byte) : (s.setRegRun bs).fb = s.fb := rfl
@[simp] theorem setRegRun_displayChanged (s : State) (bs : List Byte) : (s.setRegRun bs).displayChanged = s.displayChanged := rfl
@[simp] theorem setRegRun_key (s : State) (bs : List Byte) : (s.setRegRun bs).key = s.key := rfl
@[simp] theorem setRegRun_loaded (s : State) (bs : List Byte) : (s.setRegRun bs).loaded = s.loaded := rfl
@[simp] theorem setRegRun_halted (s : State) (bs : List Byte) : (s.setRegRun bs).halted = s.halted := rfl
@[simp] theorem setRegRun_fault (s : State) (bs : List Byte) : (s.setRegRun bs).fault = s.fault := rfl
@[simp] theorem setRegRun_beep (s : State) (bs : List Byte) : (s.setRegRun bs).beep = s.beep := rfl
@[simp] theorem setRegRun_mem (s : State) (bs : List Byte) : (s.setRegRun bs).mem = s.mem := rfl
@[simp] theorem setRegRun_font (s : State) (bs : List Byte) : (s.setRegRun bs).font = s.font := rfl
@[simp] theorem setRegRun_draws (s : State) (bs : List Byte) : (s.setRegRun bs).draws = s.draws := rfl
@[simp] theorem setRegRun_byteAt (s : State) (bs : List Byte) (d : Nat) : (s.setRegRun bs).byteAt d = s.byteAt d := rfl
@[simp] theorem setRegRun_keyAt (s : State) (bs : List Byte) (k : Fin 16) : (s.setRegRun bs).keyAt k = s.keyAt k := rfl

/-! `setI` -/
@[simp] theorem setI_V (s : State) (v : Word) : (s.setI v).V = s.V := rfl
@[simp] theorem setI_I (s : State) (v : Word) : (s.setI v).I = v := rfl
@[simp] theorem setI_pc (s : State) (v : Word) : (s.setI v).pc = s.pc := rfl
@[simp] theorem setI_sp (s : State) (v : Word) : (s.setI v).sp = s.sp := rfl
@[simp] theorem setI_stack (s : State) (v : Word) : (s.setI v).stack = s.stack := rfl
@[simp] theorem setI_DT (s : State) (v : Word) : (s.setI v).DT = s.DT := rfl
@[simp] theorem setI_ST (s : State) (v : Word) : (s.setI v).ST = s.ST := rfl
@[simp] theorem setI_fb (s : State) (v : Word) : (s.setI v).fb = s.fb := rfl
@[simp] theorem setI_displayChanged (s : State) (v : Word) : (s.setI v).displayChanged = s.displayChanged := rfl
@[simp] theorem setI_key (s : State) (v : Word) : (s.setI v).key = s.key := rfl
@[simp] theorem setI_loaded (s : State) (v : Word) : (s.setI v).loaded = s.loaded := rfl
@[simp] theorem setI_halted (s : State) (v : Word) : (s.setI v).halted = s.halted := rfl
@[simp] theorem setI_fault (s : State) (v : Word) : (s.setI v).fault = s.fault := rfl
@[simp] theorem setI_beep (s : State) (v : Word) : (s.setI v).beep = s.beep := rfl
@[simp] theorem setI_mem (s : State) (v : Word) : (s.setI v).mem = s.mem := rfl
@[simp] theorem setI_font (s : State) (v : Word) : (s.setI v).font = s.font := rfl
@[simp] theorem setI_draws (s : State) (v : Word) : (s.setI v).draws = s.draws := rfl
@[simp] theorem setI_reg (s : State) (v : Word) (q : Reg) : (s.setI v).reg q = s.reg q := rfl
@[simp] theorem setI_byteAt (s : State) (v : Word) (d : Nat) : (s.setI v).byteAt d = s.byteAt d := rfl
@[simp] theorem setI_keyAt (s : State) (v : Word) (k : Fin 16) : (s.setI v).keyAt k = s.keyAt k := rfl

/-! `setPc` -/
@[simp] theorem setPc_V (s : State) (t : Word) : (s.setPc t).V = s.V := rfl
@[simp] theorem setPc_I (s : State) (t : Word) : (s.setPc t).I = s.I := rfl
@[simp] theorem setPc_pc (s : State) (t : Word) : (s.setPc t).pc = t := rfl
@[simp] theorem setPc_sp (s : State) (t : Word) : (s.setPc t).sp = s.sp := rfl
@[simp] theorem setPc_stack (s : State) (t : Word) : (s.setPc t).stack = s.stack := rfl
@[simp] theorem setPc_DT (s : State) (t : Word) : (s.setPc t).DT = s.DT := rfl
@[simp] theorem setPc_ST (s : State) (t : Word) : (s.setPc t).ST = s.ST := rfl
@[simp] theorem setPc_fb (s : State) (t : Word) : (s.setPc t).fb = s.fb := rfl
@[simp] theorem setPc_displayChanged (s : State) (t : Word) : (s.setPc t).displayChanged = s.displayChanged := rfl
@[simp] theorem setPc_key (s : State) (t : Word) : (s.setPc t).key = s.key := rfl
@[simp] theorem setPc_loaded (s : State) (t : Word) : (s.setPc t).loaded = s.loaded := rfl
@[simp] theorem setPc_halted (s : State) (t : Word) : (s.setPc t).halted = s.halted := rfl
@[simp] theorem setPc_fault (s : State) (t : Word) : (s.setPc t).fault = s.fault := rfl
@[simp] theorem setPc_beep (s : State) (t : Word) : (s.setPc t).beep = s.beep := rfl
@[simp] theorem setPc_mem (s : State) (t : Word) : (s.setPc t).mem = s.mem := rfl
@[simp] theorem setPc_font (s : State) (t : Word) : (s.setPc t).font = s.font := rfl
@[simp] theorem setPc_draws (s : State) (t : Word) : (s.setPc t).draws = s.draws := rfl
@[simp] theorem setPc_reg (s : State) (t : Word) (q : Reg) : (s.setPc t).reg q = s.reg q := rfl
@[simp] theorem setPc_byteAt (s : State) (t : Word) (d : Nat) : (s.setPc t).byteAt d = s.byteAt d := rfl
@[simp] theorem setPc_keyAt (s : State) (t : Word) (k : Fin 16) : (s.setPc t).keyAt k = s.keyAt k := rfl

/-! `advance` -/
@[simp] theorem advance_V (s : State) : s.advance.V = s.V := rfl
@[simp] theorem advance_I (s : State) : s.advance.I = s.I := rfl
@[simp] theorem advance_pc (s : State) : s.advance.pc = s.pc + 2 := rfl
@[simp] theorem advance_sp (s : State) : s.advance.sp = s.sp := rfl
@[simp] theorem advance_stack (s : State) : s.advance.stack = s.stack := rfl
@[simp] theorem advance_DT (s : State) : s.advance.DT = s.DT := rfl
@[simp] theorem advance_ST (s : State) : s.advance.ST = s.ST := rfl
@[simp] theorem advance_fb (s : State) : s.advance.fb = s.fb := rfl
@[simp] theorem advance_displayChanged (s : State) : s.advance.displayChanged = s.displayChanged := rfl
@[simp] theorem advance_key (s : State) : s.advance.key = s.key := rfl
@[simp] theorem advance_loaded (s : State) : s.advance.loaded = s.loaded := rfl
@[simp] theorem advance_halted (s : State) : s.advance.halted = s.halted := rfl
@[simp] theorem advance_fault (s : State) : s.advance.fault = s.fault := rfl
@[simp] theorem advance_beep (s : State) : s.advance.beep = s.beep := rfl
@[simp] theorem advance_mem (s : State) : s.advance.mem = s.mem := rfl
@[simp] theorem advance_font (s : State) : s.advance.font = s.font := rfl
@[simp] theorem advance_draws (s : State) : s.advance.draws = s.draws := rfl
@[simp] theorem advance_reg (s : State) (q : Reg) : s.advance.reg q = s.reg q := rfl
@[simp] theorem advance_byteAt (s : State) (d : Nat) : s.advance.byteAt d = s.byteAt d := rfl
@[simp] theorem advance_keyAt (s : State) (k : Fin 16) : s.advance.keyAt k = s.keyAt k := rfl

/-! `skipIf` -/
@[simp] theorem skipIf_V (s : State) (c : Bool) : (s.skipIf c).V = s.V := rfl
@[simp] theorem skipIf_I (s : State) (c : Bool) : (s.skipIf c).I = s.I := rfl
@[simp] theorem skipIf_pc (s : State) (c : Bool) : (s.skipIf c).pc = if c then s.pc + 4 else s.pc + 2 := rfl
@[simp] theorem skipIf_sp (s : State) (c : Bool) : (s.skipIf c).sp = s.sp := rfl
@[simp] theorem skipIf_stack (s : State) (c : Bool) : (s.skipIf c).stack = s.stack := rfl
@[simp] theorem skipIf_DT (s : State) (c : Bool) : (s.skipIf c).DT = s.DT := rfl
@[simp] theorem skipIf_ST (s : State) (c : Bool) : (s.skipIf c).ST = s.ST := rfl
@[simp] theorem skipIf_fb (s : State) (c : Bool) : (s.skipIf c).fb = s.fb := rfl
@[simp] theorem skipIf_displayChanged (s : State) (c : Bool) : (s.skipIf c).displayChanged = s.displayChanged := rfl
@[simp] theorem skipIf_key (s : State) (c : Bool) : (s.skipIf c).key = s.key := rfl
@[simp] theorem skipIf_loaded (s : State) (c : Bool) : (s.skipIf c).loaded = s.loaded := rfl
@[simp] theorem skipIf_halted (s : State) (c : Bool) : (s.skipIf c).halted = s.halted := rfl
@[simp] theorem skipIf_fault (s : State) (c : Bool) : (s.skipIf c).fault = s.fault := rfl
@[simp] theorem skipIf_beep (s : State) (c : Bool) : (s.skipIf c).beep = s.beep := rfl
@[simp] theorem skipIf_mem (s : State) (c : Bool) : (s.skipIf c).mem = s.mem := rfl
@[simp] theorem skipIf_font (s : State) (c : Bool) : (s.skipIf c).font = s.font := rfl
@[simp] theorem skipIf_draws (s : State) (c : Bool) : (s.skipIf c).draws = s.draws := rfl
@[simp] theorem skipIf_reg (s : State) (c : Bool) (q : Reg) : (s.skipIf c).reg q = s.reg q := rfl
@[simp] theorem skipIf_byteAt (s : State) (c : Bool) (d : Nat) : (s.skipIf c).byteAt d = s.byteAt d := rfl
@[simp] theorem skipIf_keyAt (s : State) (c : Bool) (k : Fin 16) : (s.skipIf c).keyAt k = s.keyAt k := rfl

/-! `setDT` -/
@[simp] theorem setDT_V (s : State) (v : Byte) : (s.setDT v).V = s.V := rfl
@[simp] theorem setDT_I (s : State) (v : Byte) : (s.setDT v).I = s.I := rfl
@[simp] theorem setDT_pc (s : State) (v : Byte) : (s.setDT v).pc = s.pc := rfl
@[simp] theorem setDT_sp (s : State) (v : Byte) : (s.setDT v).sp = s.sp := rfl
@[simp] theorem setDT_stack (s : State) (v : Byte) : (s.setDT v).stack = s.stack := rfl
@[simp] theorem setDT_DT (s : State) (v : Byte) : (s.setDT v).DT = v := rfl
@[simp] theorem setDT_ST (s : State) (v : Byte) : (s.setDT v).ST = s.ST := rfl
@[simp] theorem setDT_fb (s : State) (v : Byte) : (s.setDT v).fb = s.fb := rfl
@[simp] theorem setDT_displayChanged (s : State) (v : Byte) : (s.setDT v).displayChanged = s.displayChanged := rfl
@[simp] theorem setDT_key (s : State) (v : Byte) : (s.setDT v).key = s.key := rfl
@[simp] theorem setDT_loaded (s : State) (v : Byte) : (s.setDT v).loaded = s.loaded := rfl
@[simp] theorem setDT_halted (s : State) (v : Byte) : (s.setDT v).halted = s.halted := rfl
@[simp] theorem setDT_fault (s : State) (v : Byte) : (s.setDT v).fault = s.fault := rfl
@[simp] theorem setDT_beep (s : State) (v : Byte) : (s.setDT v).beep = s.beep := rfl
@[simp] theorem setDT_mem (s : State) (v : Byte) : (s.setDT v).mem = s.mem := rfl
@[simp] theorem setDT_font (s : State) (v : Byte) : (s.setDT v).font = s.font := rfl
@[simp] theorem setDT_draws (s : State) (v : Byte) : (s.setDT v).draws = s.draws := rfl
@[simp] theorem setDT_reg (s : State) (v : Byte) (q : Reg) : (s.setDT v).reg q = s.reg q := rfl
@[simp] theorem setDT_byteAt (s : State) (v : Byte) (d : Nat) : (s.setDT v).byteAt d = s.byteAt d := rfl
@[simp] theorem setDT_keyAt (s : State) (v : Byte) (k : Fin 16) : (s.setDT v).keyAt k = s.keyAt k := rfl

/-! `setST` -/
@[simp] theorem setST_V (s : State) (v : Byte) : (s.setST v).V = s.V := rfl
@[simp] theorem setST_I (s : State) (v : Byte) : (s.setST v).I = s.I := rfl
@[simp] theorem setST_pc (s : State) (v : Byte) : (s.setST v).pc = s.pc := rfl
@[simp] theorem setST_sp (s : State) (v : Byte) : (s.setST v).sp = s.sp := rfl
@[simp] theorem setST_stack (s : State) (v : Byte) : (s.setST v).stack = s.stack := rfl
@[simp] theorem setST_DT (s : State) (v : Byte) : (s.setST v).DT = s.DT := rfl
@[simp] theorem setST_ST (s : State) (v : Byte) : (s.setST v).ST = v := rfl
@[simp] theorem setST_fb (s : State) (v : Byte) : (s.setST v).fb = s.fb := rfl
@[simp] theorem setST_displayChanged (s : State) (v : Byte) : (s.setST v).displayChanged = s.displayChanged := rfl
@[simp] theorem setST_key (s : State) (v : Byte) : (s.setST v).key = s.key := rfl
@[simp] theorem setST_loaded (s : State) (v : Byte) : (s.setST v).loaded = s.loaded := rfl
@[simp] theorem setST_halted (s : State) (v : Byte) : (s.setST v).halted = s.halted := rfl
@[simp] theorem setST_fault (s : State) (v : Byte) : (s.setST v).fault = s.fault := rfl
@[simp] theorem setST_beep (s : State) (v : Byte) : (s.setST v).beep = s.beep := rfl
@[simp] theorem setST_mem (s : State) (v : Byte) : (s.setST v).mem = s.mem := rfl
@[simp] theorem setST_font (s : State) (v : Byte) : (s.setST v).font = s.font := rfl
@[simp] theorem setST_draws (s : State) (v : Byte) : (s.setST v).draws = s.draws := rfl
@[simp] theorem setST_reg (s : State) (v : Byte) (q : Reg) : (s.setST v).reg q = s.reg q := rfl
@[simp] theorem setST_byteAt (s : State) (v : Byte) (d : Nat) : (s.setST v).byteAt d = s.byteAt d := rfl
@[simp] theorem setST_keyAt (s : State) (v : Byte) (k : Fin 16) : (s.setST v).keyAt k = s.keyAt k := rfl

/-! `setByte` -/
@[simp] theorem setByte_V (s : State) (a : Nat) (v : Byte) : (s.setByte a v).V = s.V := rfl
@[simp] theorem setByte_I (s : State) (a : Nat) (v : Byte) : (s.setByte a v).I = s.I := rfl
@[simp] theorem setByte_pc (s : State) (a : Nat) (v : Byte) : (s.setByte a v).pc = s.pc := rfl
@[simp] theorem setByte_sp (s : State) (a : Nat) (v : Byte) : (s.setByte a v).sp = s.sp := rfl
@[simp] theorem setByte_stack (s : State) (a : Nat) (v : Byte) : (s.setByte a v).stack = s.stack := rfl
@[simp] theorem setByte_DT (s : State) (a : Nat) (v : Byte) : (s.setByte a v).DT = s.DT := rfl
@[simp] theorem setByte_ST (s : State) (a : Nat) (v : Byte) : (s.setByte a v).ST = s.ST := rfl
@[simp] theorem setByte_fb (s : State) (a : Nat) (v : Byte) : (s.setByte a v).fb = s.fb := rfl
@[simp] theorem setByte_displayChanged (s : State) (a : Nat) (v : Byte) : (s.setByte a v).displayChanged = s.displayChanged := rfl
@[simp] theorem setByte_key (s : State) (a : Nat) (v : Byte) : (s.setByte a v).key = s.key := rfl
@[simp] theorem setByte_loaded (s : State) (a : Nat) (v : Byte) : (s.setByte a v).loaded = s.loaded := rfl
@[simp] theorem setByte_halted (s : State) (a : Nat) (v : Byte) : (s.setByte a v).halted = s.halted := rfl
@[simp] theorem setByte_fault (s : State) (a : Nat) (v : Byte) : (s.setByte a v).fault = s.fault := rfl
@[simp] theorem setByte_beep (s : State) (a : Nat) (v : Byte) : (s.setByte a v).beep = s.beep := rfl
@[simp] theorem setByte_mem (s : State) (a : Nat) (v : Byte) : (s.setByte a v).mem = Memory.write s.font a v s.mem := rfl
@[simp] theorem setByte_font (s : State) (a : Nat) (v : Byte) : (s.setByte a v).font = s.font := rfl
@[simp] theorem setByte_draws (s : State) (a : Nat) (v : Byte) : (s.setByte a v).draws = s.draws := rfl
@[simp] theorem setByte_reg (s : State) (a : Nat) (v : Byte) (q : Reg) : (s.setByte a v).reg q = s.reg q := rfl
@[simp] theorem setByte_keyAt (s : State) (a : Nat) (v : Byte) (k : Fin 16) : (s.setByte a v).keyAt k = s.keyAt k := rfl

/-! `setFrame` -/
@[simp] theorem setFrame_V (s : State) (f : Frame) : (s.setFrame f).V = s.V := rfl
@[simp] theorem setFrame_I (s : State) (f : Frame) : (s.setFrame f).I = s.I := rfl
@[simp] theorem setFrame_pc (s : State) (f : Frame) : (s.setFrame f).pc = s.pc := rfl
@[simp] theorem setFrame_sp (s : State) (f : Frame) : (s.setFrame f).sp = s.sp := rfl
@[simp] theorem setFrame_stack (s : State) (f : Frame) : (s.setFrame f).stack = s.stack := rfl
@[simp] theorem setFrame_DT (s : State) (f : Frame) : (s.setFrame f).DT = s.DT := rfl
@[simp] theorem setFrame_ST (s : State) (f : Frame) : (s.setFrame f).ST = s.ST := rfl
@[simp] theorem setFrame_fb (s : State) (f : Frame) : (s.setFrame f).fb = f := rfl
@[simp] theorem setFrame_displayChanged (s : State) (f : Frame) : (s.setFrame f).displayChanged = true := rfl
@[simp] theorem setFrame_key (s : State) (f : Frame) : (s.setFrame f).key = s.key := rfl
@[simp] theorem setFrame_loaded (s : State) (f : Frame) : (s.setFrame f).loaded = s.loaded := rfl
@[simp] theorem setFrame_halted (s : State) (f : Frame) : (s.setFrame f).halted = s.halted := rfl
@[simp] theorem setFrame_fault (s : State) (f : Frame) : (s.setFrame f).fault = s.fault := rfl
@[simp] theorem setFrame_beep (s : State) (f : Frame) : (s.setFrame f).beep = s.beep := rfl
@[simp] theorem setFrame_mem (s : State) (f : Frame) : (s.setFrame f).mem = s.mem := rfl
@[simp] theorem setFrame_font (s : State) (f : Frame) : (s.setFrame f).font = s.font := rfl
@[simp] theorem setFrame_draws (s : State) (f : Frame) : (s.setFrame f).draws = s.draws := rfl
@[simp] theorem setFrame_reg (s : State) (f : Frame) (q : Reg) : (s.setFrame f).reg q = s.reg q := rfl
@[simp] theorem setFrame_byteAt (s : State) (f : Frame) (d : Nat) : (s.setFrame f).byteAt d = s.byteAt d := rfl
@[simp] theorem setFrame_keyAt (s : State) (f : Frame) (k : Fin 16) : (s.setFrame f).keyAt k = s.keyAt k := rfl

/-! `sampled` -/
@[simp] theorem sampled_V (s : State) : s.sampled.V = s.V := rfl
@[simp] theorem sampled_I (s : State) : s.sampled.I = s.I := rfl
@[simp] theorem sampled_pc (s : State) : s.sampled.pc = s.pc := rfl
@[simp] theorem sampled_sp (s : State) : s.sampled.sp = s.sp := rfl
@[simp] theorem sampled_stack (s : State) : s.sampled.stack = s.stack := rfl
@[simp] theorem sampled_DT (s : State) : s.sampled.DT = s.DT := rfl
@[simp] theorem sampled_ST (s : State) : s.sampled.ST = s.ST := rfl
@[simp] theorem sampled_fb (s : State) : s.sampled.fb = s.fb := rfl
@[simp] theorem sampled_displayChanged (s : State) : s.sampled.displayChanged = s.displayChanged := rfl
@[simp] theorem sampled_key (s : State) : s.sampled.key = s.key := rfl
@[simp] theorem sampled_loaded (s : State) : s.sampled.loaded = s.loaded := rfl
@[simp] theorem sampled_halted (s : State) : s.sampled.halted = s.halted := rfl
@[simp] theorem sampled_fault (s : State) : s.sampled.fault = s.fault := rfl
@[simp] theorem sampled_beep (s : State) : s.sampled.beep = s.beep := rfl
@[simp] theorem sampled_mem (s : State) : s.sampled.mem = s.mem := rfl
@[simp] theorem sampled_font (s : State) : s.sampled.font = s.font := rfl
@[simp] theorem sampled_draws (s : State) : s.sampled.draws = s.draws + 1 := rfl
@[simp] theorem sampled_reg (s : State) (q : Reg) : s.sampled.reg q = s.reg q := rfl
@[simp] theorem sampled_byteAt (s : State) (d : Nat) : s.sampled.byteAt d = s.byteAt d := rfl
@[simp] theorem sampled_keyAt (s : State) (k : Fin 16) : s.sampled.keyAt k = s.keyAt k := rfl

/-! `tick` -/
@[simp] theorem tick_V (s : State) : (tick s).V = s.V := rfl
@[simp] theorem tick_I (s : State) : (tick s).I = s.I := rfl
@[simp] theorem tick_pc (s : State) : (tick s).pc = s.pc := rfl
@[simp] theorem tick_sp (s : State) : (tick s).sp = s.sp := rfl
@[simp] theorem tick_stack (s : State) : (tick s).stack = s.stack := rfl
@[simp] theorem tick_DT (s : State) : (tick s).DT = countDown s.DT := rfl
@[simp] theorem tick_ST (s : State) : (tick s).ST = countDown s.ST := rfl
@[simp] theorem tick_fb (s : State) : (tick s).fb = s.fb := rfl
@[simp] theorem tick_displayChanged (s : State) : (tick s).displayChanged = s.displayChanged := rfl
@[simp] theorem tick_key (s : State) : (tick s).key = s.key := rfl
@[simp] theorem tick_loaded (s : State) : (tick s).loaded = s.loaded := rfl
@[simp] theorem tick_halted (s : State) : (tick s).halted = s.halted := rfl
@[simp] theorem tick_fault (s : State) : (tick s).fault = s.fault := rfl
@[simp] theorem tick_beep (s : State) : (tick s).beep = (s.ST != 0) := rfl
@[simp] theorem tick_mem (s : State) : (tick s).mem = s.mem := rfl
@[simp] theorem tick_font (s : State) : (tick s).font = s.font := rfl
@[simp] theorem tick_draws (s : State) : (tick s).draws = s.draws := rfl
@[simp] theorem tick_reg (s : State) (q : Reg) : (tick s).reg q = s.reg q := rfl
@[simp] theorem tick_byteAt (s : State) (d : Nat) : (tick s).byteAt d = s.byteAt d := rfl
@[simp] theorem tick_keyAt (s : State) (k : Fin 16) : (tick s).keyAt k = s.keyAt k := rfl

/-! `beginCycle` -/
@[simp] theorem beginCycle_V (s : State) : (beginCycle s).V = s.V := rfl
@[simp] theorem beginCycle_I (s : State) : (beginCycle s).I = s.I := rfl
@[simp] theorem beginCycle_pc (s : State) : (beginCycle s).pc = s.pc := rfl
@[simp] theorem beginCycle_sp (s : State) : (beginCycle s).sp = s.sp := rfl
@[simp] theorem beginCycle_stack (s : State) : (beginCycle s).stack = s.stack := rfl
@[simp] theorem beginCycle_DT (s : State) : (beginCycle s).DT = s.DT := rfl
@[simp] theorem beginCycle_ST (s : State) : (beginCycle s).ST = s.ST := rfl
@[simp] theorem beginCycle_fb (s : State) : (beginCycle s).fb = s.fb := rfl
@[simp] theorem beginCycle_displayChanged (s : State) : (beginCycle s).displayChanged = false := rfl
@[simp] theorem beginCycle_key (s : State) : (beginCycle s).key = s.key := rfl
@[simp] theorem beginCycle_loaded (s : State) : (beginCycle s).loaded = s.loaded := rfl
@[simp] theorem beginCycle_halted (s : State) : (beginCycle s).halted = s.halted := rfl
@[simp] theorem beginCycle_fault (s : State) : (beginCycle s).fault = s.fault := rfl
@[simp] theorem beginCycle_beep (s : State) : (beginCycle s).beep = s.beep := rfl
@[simp] theorem beginCycle_mem (s : State) : (beginCycle s).mem = s.mem := rfl
@[simp] theorem beginCycle_font (s : State) : (beginCycle s).font = s.font := rfl
@[simp] theorem beginCycle_draws (s : State) : (beginCycle s).draws = s.draws := rfl
@[simp] theorem beginCycle_reg (s : State) (q : Reg) : (beginCycle s).reg q = s.reg q := rfl
@[simp] theorem beginCycle_byteAt (s : State) (d : Nat) : (beginCycle s).byteAt d = s.byteAt d := rfl
@[simp] theorem beginCycle_keyAt (s : State) (k : Fin 16) : (beginCycle s).keyAt k = s.keyAt k := rfl

/-! `noopCycle` -/
@[simp] theorem noopCycle_V (s : State) : (noopCycle s).V = s.V := rfl
@[simp] theorem noopCycle_I (s : State) : (noopCycle s).I = s.I := rfl
@[simp] theorem noopCycle_pc (s : State) : (noopCycle s).pc = s.pc := rfl
@[simp] theorem noopCycle_sp (s : State) : (noopCycle s).sp = s.sp := rfl
@[simp] theorem noopCycle_stack (s : State) : (noopCycle s).stack = s.stack := rfl
@[simp] theorem noopCycle_DT (s : State) : (noopCycle s).DT = s.DT := rfl
@[simp] theorem noopCycle_ST (s : State) : (noopCycle s).ST = s.ST := rfl
@[simp] theorem noopCycle_fb (s : State) : (noopCycle s).fb = s.fb := rfl
@[simp] theorem noopCycle_displayChanged (s : State) : (noopCycle s).displayChanged = s.displayChanged := rfl
@[simp] theorem noopCycle_key (s : State) : (noopCycle s).key = s.key := rfl
@[simp] theorem noopCycle_loaded (s : State) : (noopCycle s).loaded = s.loaded := rfl
@[simp] theorem noopCycle_halted (s : State) : (noopCycle s).halted = s.halted := rfl
@[simp] theorem noopCycle_fault (s : State) : (noopCycle s).fault = s.fault := rfl
@[simp] theorem noopCycle_beep (s : State) : (noopCycle s).beep = false := rfl
@[simp] theorem noopCycle_mem (s : State) : (noopCycle s).mem = s.mem := rfl
@[simp] theorem noopCycle_font (s : State) : (noopCycle s).font = s.font := rfl
@[simp] theorem noopCycle_draws (s : State) : (noopCycle s).draws = s.draws := rfl
@[simp] theorem noopCycle_reg (s : State) (q : Reg) : (noopCycle s).reg q = s.reg q := rfl
@[simp] theorem noopCycle_byteAt (s : State) (d : Nat) : (noopCycle s).byteAt d = s.byteAt d := rfl
@[simp] theorem noopCycle_keyAt (s : State) (k : Fin 16) : (noopCycle s).keyAt k = s.keyAt k := rfl

/-! `takeFault` -/
@[simp] theorem takeFault_V (c : FaultCode) (o n : Word) (s : State) : (takeFault c o n s).V = s.V := rfl
@[simp] theorem takeFault_I (c : FaultCode) (o n : Word) (s : State) : (takeFault c o n s).I = s.I := rfl
@[simp] theorem takeFault_pc (c : FaultCode) (o n : Word) (s : State) : (takeFault c o n s).pc = s.pc := rfl
@[simp] theorem takeFault_sp (c : FaultCode) (o n : Word) (s : State) : (takeFault c o n s).sp = s.sp := rfl
@[simp] theorem takeFault_stack (c : FaultCode) (o n : Word) (s : State) : (takeFault c o n s).stack = s.stack := rfl
@[simp] theorem takeFault_DT (c : FaultCode) (o n : Word) (s : State) : (takeFault c o n s).DT = s.DT := rfl
@[simp] theorem takeFault_ST (c : FaultCode) (o n : Word) (s : State) : (takeFault c o n s).ST = s.ST := rfl
@[simp] theorem takeFault_fb (c : FaultCode) (o n : Word) (s : State) : (takeFault c o n s).fb = s.fb := rfl
@[simp] theorem takeFault_displayChanged (c : FaultCode) (o n : Word) (s : State) : (takeFault c o n s).displayChanged = s.displayChanged := rfl
@[simp] theorem takeFault_key (c : FaultCode) (o n : Word) (s : State) : (takeFault c o n s).key = s.key := rfl
@[simp] theorem takeFault_loaded (c : FaultCode) (o n : Word) (s : State) : (takeFault c o n s).loaded = s.loaded := rfl
@[simp] theorem takeFault_halted (c : FaultCode) (o n : Word) (s : State) : (takeFault c o n s).halted = true := rfl
@[simp] theorem takeFault_fault (c : FaultCode) (o n : Word) (s : State) : (takeFault c o n s).fault = { code := c, pc := s.pc, opcode := o, info := n } := rfl
@[simp] theorem takeFault_beep (c : FaultCode) (o n : Word) (s : State) : (takeFault c o n s).beep = false := rfl
@[simp] theorem takeFault_mem (c : FaultCode) (o n : Word) (s : State) : (takeFault c o n s).mem = s.mem := rfl
@[simp] theorem takeFault_font (c : FaultCode) (o n : Word) (s : State) : (takeFault c o n s).font = s.font := rfl
@[simp] theorem takeFault_draws (c : FaultCode) (o n : Word) (s : State) : (takeFault c o n s).draws = s.draws := rfl
@[simp] theorem takeFault_reg (c : FaultCode) (o n : Word) (s : State) (q : Reg) : (takeFault c o n s).reg q = s.reg q := rfl
@[simp] theorem takeFault_byteAt (c : FaultCode) (o n : Word) (s : State) (d : Nat) : (takeFault c o n s).byteAt d = s.byteAt d := rfl
@[simp] theorem takeFault_keyAt (c : FaultCode) (o n : Word) (s : State) (k : Fin 16) : (takeFault c o n s).keyAt k = s.keyAt k := rfl

end Sys2Proof.Machine
end

