-- ==== Sys2Proof/Laws/Blit.lean ====
section
/-! SUPPORT. The XOR blit, pixel by pixel: what one flip, one sprite row and a whole sprite do to a pixel and to the collision flag. -/

namespace Sys2Proof.Machine

/-- The pixels that a blit has flipped and met so far: pixel `(y, x)` was flipped from the frame `f` exactly when `W y x`, and the
collision flag says whether one of them was set in `f` (or it was set before, `c`). -/
def Blit.drew (f : Frame) (c : Bool) (W : Nat → Nat → Bool) (p : Blit) : Prop :=
  (∀ y x, y < 32 → x < 64 → p.frame.pixel y x = (f.pixel y x ^^ W y x)) ∧
    (p.collision = true ↔ c = true ∨ ∃ y x, y < 32 ∧ x < 64 ∧ W y x = true ∧ f.pixel y x = true)

theorem Frame.pixel_eq (f : Frame) {y x : Nat} (hy : y < 32) (hx : x < 64) : f.pixel y x = f[y][x] := by
  simp [Frame.pixel, hy, hx]

theorem Blit.drew_nothing (p : Blit) : Blit.drew p.frame p.collision (fun _ _ => false) p := by
  constructor
  · intro y x _ _
    simp
  · simp

/-- Flipping a pixel that the draw has not touched yet. -/
theorem Blit.drew_flip {f : Frame} {c : Bool} {W : Nat → Nat → Bool} {p : Blit} (h : Blit.drew f c W p) (y x : Nat)
    (hW : W y x = false) : Blit.drew f c (fun b a => W b a || (b == y && a == x)) (p.flip y x) := by
  by_cases hb : y < 32 ∧ x < 64
  · obtain ⟨hy, hx⟩ := hb
    have old : (p.frame[y])[x] = f.pixel y x := by
      have := h.1 y x hy hx
      rw [Frame.pixel_eq _ hy hx] at this
      simpa [hW] using this
    constructor
    · intro b a hb ha
      rw [Frame.pixel_eq _ hb ha]
      simp only [Blit.flip, hy, hx, and_self, dif_pos]
      by_cases e1 : b = y
      · subst e1
        by_cases e2 : a = x
        · subst e2; simp [old, hW]
        · have := h.1 b a hb ha
          rw [Frame.pixel_eq _ hb ha] at this
          simp [Vector.getElem_set_ne _ _ (Ne.symm e2), this, e2]
      · have := h.1 b a hb ha
        rw [Frame.pixel_eq _ hb ha] at this
        simp [Vector.getElem_set_ne _ _ (Ne.symm e1), this, e1]
    · simp only [Blit.flip, hy, hx, and_self, dif_pos, Bool.or_eq_true, h.2, old]
      constructor
      · rintro ((hc | ⟨b, a, hb, ha, hw, hf⟩) | ho)
        · exact .inl hc
        · exact .inr ⟨b, a, hb, ha, .inl hw, hf⟩
        · exact .inr ⟨y, x, hy, hx, .inr (by simp), ho⟩
      · rintro (hc | ⟨b, a, hb, ha, hw | hw, hf⟩)
        · exact .inl (.inl hc)
        · exact .inl (.inr ⟨b, a, hb, ha, hw, hf⟩)
        · simp only [Bool.and_eq_true, beq_iff_eq] at hw
          obtain ⟨rfl, rfl⟩ := hw
          exact .inr hf
  · have hf : p.flip y x = p := by simp [Blit.flip, hb]
    rw [hf]
    constructor
    · intro b a hb' ha'
      have hne : (b == y && a == x) = false := by
        simp only [Bool.and_eq_false_iff, beq_eq_false_iff_ne]
        omega
      simpa [hne] using h.1 b a hb' ha'
    · rw [h.2]
      constructor
      · rintro (hc | ⟨b, a, hb', ha', hw, hf⟩)
        · exact .inl hc
        · exact .inr ⟨b, a, hb', ha', by simp [hw], hf⟩
      · rintro (hc | ⟨b, a, hb', ha', hw, hf⟩)
        · exact .inl hc
        · refine .inr ⟨b, a, hb', ha', ?_, hf⟩
          have hne : (b == y && a == x) = false := by
            simp only [Bool.and_eq_false_iff, beq_eq_false_iff_ne]
            omega
          simpa [hne] using hw

theorem Blit.drew_congr {f : Frame} {c : Bool} {W W' : Nat → Nat → Bool} {p : Blit} (e : ∀ y x, W y x = W' y x)
    (h : Blit.drew f c W p) : Blit.drew f c W' p := by
  have : W = W' := funext fun y => funext fun x => e y x
  rwa [this] at h

/-- One step of a sprite row: the bit `7 - col` of the byte at column `x0 + col`. -/
theorem Blit.drew_bit {f : Frame} {c : Bool} {W : Nat → Nat → Bool} {p : Blit} (h : Blit.drew f c W p) (b : Byte)
    (y x0 col : Nat) (hW : W y (x0 + col) = false) :
    Blit.drew f c (fun d a => W d a || (d == y && a == x0 + col && b.getLsbD (7 - col)))
      (if b.getLsbD (7 - col) then p.flip y (x0 + col) else p) := by
  by_cases hb : b.getLsbD (7 - col) = true
  · simp only [hb, if_true]
    exact Blit.drew_congr (by simp) (Blit.drew_flip h y (x0 + col) hW)
  · simp only [Bool.not_eq_true] at hb
    simp only [hb]
    exact Blit.drew_congr (by simp) h

/-- A sprite row drawn where the draw has not touched a pixel yet. -/
theorem Blit.drew_row {f : Frame} {c : Bool} {W : Nat → Nat → Bool} {p : Blit} (h : Blit.drew f c W p) (b : Byte)
    (y x0 : Nat) (hW : ∀ x, W y x = false) :
    Blit.drew f c
      (fun d a => W d a || (d == y && decide (x0 ≤ a) && decide (a < x0 + 8) && b.getLsbD (7 - (a - x0))))
      (p.row b y x0) := by
  have key : ∀ k, k ≤ 8 → Blit.drew f c
      (fun d a => W d a || (d == y && decide (x0 ≤ a) && decide (a < x0 + k) && b.getLsbD (7 - (a - x0))))
      (([0, 1, 2, 3, 4, 5, 6, 7].take k).foldl
        (fun q col => if b.getLsbD (7 - col) then q.flip y (x0 + col) else q) p) := by
    intro k
    induction k with
    | zero =>
      intro _
      refine Blit.drew_congr (fun d a => ?_) h
      have : (decide (x0 ≤ a) && decide (a < x0 + 0)) = false := by
        simp only [Bool.and_eq_false_iff, decide_eq_false_iff_not]
        omega
      rw [Bool.and_assoc (d == y), this]
      simp
    | succ k ih =>
      intro hk
      have hs : ([0, 1, 2, 3, 4, 5, 6, 7] : List Nat).take (k + 1) = ([0, 1, 2, 3, 4, 5, 6, 7] : List Nat).take k ++ [k] := by
        have : k < 8 := by omega
        interval_cases k <;> rfl
      rw [hs, List.foldl_append]
      refine Blit.drew_congr (fun d a => ?_) (Blit.drew_bit (ih (by omega)) b y x0 k ?_)
      · by_cases e : a = x0 + k
        · subst e
          simp
        · have : decide (a < x0 + (k + 1)) = decide (a < x0 + k) := by
            simp only [decide_eq_decide]
            omega
          simp [this, e]
      · simp [hW]
  simpa [Blit.row] using key 8 (le_refl 8)

/-- A whole sprite drawn from row `y0` on, where the draw has not touched a pixel yet. -/
theorem Blit.drew_rows {f : Frame} {c : Bool} (bs : List Byte) (x0 : Nat) :
    ∀ {W : Nat → Nat → Bool} {p : Blit} (y0 : Nat), Blit.drew f c W p → (∀ y x, y0 ≤ y → W y x = false) →
      Blit.drew f c
        (fun y x => W y x || (decide (y0 ≤ y) && decide (x0 ≤ x) && decide (x < x0 + 8) &&
          ((bs[y - y0]?).getD 0).getLsbD (7 - (x - x0))))
        (p.rows y0 x0 bs) := by
  induction bs with
  | nil =>
    intro W p y0 h _
    exact Blit.drew_congr (by simp) h
  | cons b bs ih =>
    intro W p y0 h hW
    refine Blit.drew_congr (fun y x => ?_)
      (ih (y0 + 1) (Blit.drew_row h b y0 x0 (fun x => hW y0 x (le_refl _))) ?_)
    · by_cases e : y = y0
      · subst e
        simp
      · by_cases hle : y0 ≤ y
        · have h1 : y0 + 1 ≤ y := by omega
          have h2 : y - y0 = (y - (y0 + 1)) + 1 := by omega
          have h3 : (y == y0) = false := by simpa using e
          simp [hle, h1, h2, h3]
        · have h1 : ¬ y0 + 1 ≤ y := by omega
          simp [e, hle, h1]
    · intro y x hy
      have e : y ≠ y0 := by omega
      simp [hW y x (by omega), e]

end Sys2Proof.Machine
end

