-- ==== Sys2Proof/Laws/Encoding.lean ====
section
/-! SUPPORT. The fields of a word built from its fields, and a word put together again from its fields. -/

namespace Sys2Proof

theorem word_eq_of_toNat {v w : Word} (h : v.toNat = w.toNat) : v = w := BitVec.eq_of_toNat_eq h

/-! ### The fields as numbers -/

theorem opField_toNat (w : Word) : (opField w).toNat = w.toNat / 4096 := by
  have := w.isLt
  simp [opField, Nat.shiftRight_eq_div_pow]
  omega

theorem xField_val (w : Word) : (xField w).val = w.toNat / 256 % 16 := by
  show (w.extractLsb' 8 4).toNat = _
  simp [Nat.shiftRight_eq_div_pow]

theorem yField_val (w : Word) : (yField w).val = w.toNat / 16 % 16 := by
  show (w.extractLsb' 4 4).toNat = _
  simp [Nat.shiftRight_eq_div_pow]

theorem nField_toNat (w : Word) : (nField w).toNat = w.toNat % 16 := by simp [nField]

theorem nnField_toNat (w : Word) : (nnField w).toNat = w.toNat % 256 := by simp [nnField]

theorem nnnField_toNat (w : Word) : (nnnField w).toNat = w.toNat % 4096 := by simp [nnnField]

/-! ### The words of the formats as numbers -/

theorem append_toNat {n m : Nat} (a : BitVec n) (b : BitVec m) : (a ++ b).toNat = a.toNat * 2 ^ m + b.toNat := by
  rw [BitVec.toNat_append, ← Nat.shiftLeft_add_eq_or_of_lt b.isLt, Nat.shiftLeft_eq]

@[simp] theorem regNibble_toNat (x : Reg) : (regNibble x).toNat = x.val := rfl

theorem encodeA_toNat (op : BitVec 4) (nnn : Addr) : (encodeA op nnn).toNat = op.toNat * 4096 + nnn.toNat :=
  append_toNat op nnn

theorem encodeXI_toNat (op : BitVec 4) (x : Reg) (nn : Byte) :
    (encodeXI op x nn).toNat = (op.toNat * 16 + x.val) * 256 + nn.toNat := by
  have h := append_toNat (op ++ regNibble x) nn
  rw [append_toNat op (regNibble x)] at h
  exact h

theorem encodeXYN_toNat (op : BitVec 4) (x y : Reg) (n : Nibble) :
    (encodeXYN op x y n).toNat = ((op.toNat * 16 + x.val) * 16 + y.val) * 16 + n.toNat := by
  have h := append_toNat (op ++ regNibble x ++ regNibble y) n
  rw [append_toNat (op ++ regNibble x) (regNibble y), append_toNat op (regNibble x)] at h
  exact h

/-! ### The fields of the formats -/

@[simp] theorem opField_encodeA (op : BitVec 4) (nnn : Addr) : opField (encodeA op nnn) = op := by
  apply BitVec.eq_of_toNat_eq
  have := nnn.isLt
  rw [opField_toNat, encodeA_toNat]
  omega

@[simp] theorem nnnField_encodeA (op : BitVec 4) (nnn : Addr) : nnnField (encodeA op nnn) = nnn := by
  apply BitVec.eq_of_toNat_eq
  have := nnn.isLt
  rw [nnnField_toNat, encodeA_toNat]
  omega

@[simp] theorem opField_encodeXI (op : BitVec 4) (x : Reg) (nn : Byte) : opField (encodeXI op x nn) = op := by
  apply BitVec.eq_of_toNat_eq
  have := nn.isLt
  rw [opField_toNat, encodeXI_toNat]
  omega

@[simp] theorem xField_encodeXI (op : BitVec 4) (x : Reg) (nn : Byte) : xField (encodeXI op x nn) = x := by
  apply Fin.ext
  have := nn.isLt
  rw [xField_val, encodeXI_toNat]
  omega

@[simp] theorem nnField_encodeXI (op : BitVec 4) (x : Reg) (nn : Byte) : nnField (encodeXI op x nn) = nn := by
  apply BitVec.eq_of_toNat_eq
  have := nn.isLt
  rw [nnField_toNat, encodeXI_toNat]
  omega

@[simp] theorem opField_encodeXYN (op : BitVec 4) (x y : Reg) (n : Nibble) : opField (encodeXYN op x y n) = op := by
  apply BitVec.eq_of_toNat_eq
  have := n.isLt
  rw [opField_toNat, encodeXYN_toNat]
  omega

@[simp] theorem xField_encodeXYN (op : BitVec 4) (x y : Reg) (n : Nibble) : xField (encodeXYN op x y n) = x := by
  apply Fin.ext
  have := n.isLt
  rw [xField_val, encodeXYN_toNat]
  omega

@[simp] theorem yField_encodeXYN (op : BitVec 4) (x y : Reg) (n : Nibble) : yField (encodeXYN op x y n) = y := by
  apply Fin.ext
  have := n.isLt
  rw [yField_val, encodeXYN_toNat]
  omega

@[simp] theorem nField_encodeXYN (op : BitVec 4) (x y : Reg) (n : Nibble) : nField (encodeXYN op x y n) = n := by
  apply BitVec.eq_of_toNat_eq
  have := n.isLt
  rw [nField_toNat, encodeXYN_toNat]
  omega

/-! ### A word put together again from its fields -/

theorem encodeA_fields (w : Word) : encodeA (opField w) (nnnField w) = w := by
  apply word_eq_of_toNat
  rw [encodeA_toNat, opField_toNat, nnnField_toNat]
  omega

theorem encodeXI_fields (w : Word) : encodeXI (opField w) (xField w) (nnField w) = w := by
  apply word_eq_of_toNat
  rw [encodeXI_toNat, opField_toNat, xField_val, nnField_toNat]
  omega

theorem encodeXYN_fields (w : Word) : encodeXYN (opField w) (xField w) (yField w) (nField w) = w := by
  apply word_eq_of_toNat
  rw [encodeXYN_toNat, opField_toNat, xField_val, yField_val, nField_toNat]
  omega

/-! ### Bytes and words -/

@[simp] theorem wordOfBytes_high_low (w : Word) : wordOfBytes (highByte w) (lowByte w) = w := by
  apply word_eq_of_toNat
  have := w.isLt
  rw [wordOfBytes, append_toNat]
  simp [highByte, lowByte, Nat.shiftRight_eq_div_pow]
  omega

theorem wordOfBytes_toNat (hi lo : Byte) : (wordOfBytes hi lo).toNat = 256 * hi.toNat + lo.toNat := by
  rw [wordOfBytes, append_toNat]
  omega

/-! ### The masks of the formats (R62, R65) -/

theorem append_and {n m : Nat} (a c : BitVec n) (b d : BitVec m) : (a ++ b) &&& (c ++ d) = (a &&& c) ++ (b &&& d) :=
  BitVec.and_append

theorem mask_F000 (w : Word) : w &&& 0xF000 = encodeA (opField w) 0 := by
  have h := append_and (opField w) 0xF#4 (nnnField w) 0#12
  rw [show opField w &&& 0xF#4 = opField w from BitVec.and_allOnes, BitVec.and_zero] at h
  conv_lhs => rw [← encodeA_fields w]
  exact h

theorem mask_F0FF (w : Word) : w &&& 0xF0FF = encodeXI (opField w) 0 (nnField w) := by
  have h := append_and (opField w ++ regNibble (xField w)) (0xF#4 ++ 0#4) (nnField w) 0xFF#8
  rw [append_and (opField w) 0xF#4 (regNibble (xField w)) 0#4, show opField w &&& 0xF#4 = opField w from BitVec.and_allOnes, BitVec.and_zero,
    show nnField w &&& 0xFF#8 = nnField w from BitVec.and_allOnes] at h
  conv_lhs => rw [← encodeXI_fields w]
  exact h

theorem mask_F00F (w : Word) : w &&& 0xF00F = encodeXYN (opField w) 0 0 (nField w) := by
  have h := append_and (opField w ++ regNibble (xField w) ++ regNibble (yField w)) (0xF#4 ++ 0#4 ++ 0#4) (nField w) 0xF#4
  rw [append_and (opField w ++ regNibble (xField w)) (0xF#4 ++ 0#4) (regNibble (yField w)) 0#4,
    append_and (opField w) 0xF#4 (regNibble (xField w)) 0#4, show opField w &&& 0xF#4 = opField w from BitVec.and_allOnes, BitVec.and_zero,
    BitVec.and_zero, show nField w &&& 0xF#4 = nField w from BitVec.and_allOnes] at h
  conv_lhs => rw [← encodeXYN_fields w]
  exact h

theorem mask_FFFF (w : Word) : w &&& 0xFFFF = w := BitVec.and_allOnes

end Sys2Proof
end

