-- ==== Sys2Proof/Laws/Memory.lean ====
section
/-! SUPPORT. Memory: reading after writing, the canonical form, and stores of several bytes. -/

namespace Sys2Proof.Machine

theorem Memory.read_put_same (font : Vector Byte 80) (a : Nat) (v : Byte) (m : Memory)
    (h : Memory.read font a m = unlistedByte font a) : Memory.read font a (Memory.put font a v m) = v := by
  by_cases hv : v = unlistedByte font a <;> simp [Memory.put, hv, h, Memory.read]

theorem Memory.read_put_other (font : Vector Byte 80) {a c : Nat} (v : Byte) (m : Memory) (h : a ≠ c) :
    Memory.read font c (Memory.put font a v m) = Memory.read font c m := by
  by_cases hv : v = unlistedByte font a <;> simp [Memory.put, hv, h, Memory.read]

/-- A canonical list from `lo` on lists no address below `lo`. -/
theorem Memory.read_of_lt (font : Vector Byte 80) {a lo : Nat} {m : Memory} (hm : Memory.wfFrom font lo m = true)
    (h : a < lo) : Memory.read font a m = unlistedByte font a := by
  induction m generalizing lo with
  | nil => rfl
  | cons c m ih =>
    obtain ⟨b, w⟩ := c
    simp only [Memory.wfFrom, Bool.and_eq_true, decide_eq_true_eq] at hm
    have hne : b ≠ a := by omega
    simpa [Memory.read, hne] using ih hm.2 (by omega)

/-- A write leaves every other byte alone. -/
theorem Memory.read_write_other (font : Vector Byte 80) {a c : Nat} (v : Byte) (m : Memory) (h : a ≠ c) :
    Memory.read font c (Memory.write font a v m) = Memory.read font c m := by
  induction m with
  | nil => exact Memory.read_put_other font v [] h
  | cons d m ih =>
    obtain ⟨b, w⟩ := d
    by_cases h1 : b < a
    · simp [Memory.write, h1, Memory.read, ih]
    · by_cases h2 : b = a
      · subst h2; simp [Memory.write, Memory.read_put_other font v m h, Memory.read, h]
      · simp [Memory.write, h1, h2, Memory.read_put_other font v _ h]

/-- A read after a write to the same place gives the value written. -/
theorem Memory.read_write_same (font : Vector Byte 80) {lo : Nat} (a : Nat) (v : Byte) (m : Memory)
    (hm : Memory.wfFrom font lo m = true) : Memory.read font a (Memory.write font a v m) = v := by
  induction m generalizing lo with
  | nil => exact Memory.read_put_same font a v [] rfl
  | cons d m ih =>
    obtain ⟨b, w⟩ := d
    have hm' := hm
    simp only [Memory.wfFrom, Bool.and_eq_true, decide_eq_true_eq] at hm
    by_cases h1 : b < a
    · have hne : b ≠ a := by omega
      simp [Memory.write, h1, Memory.read, hne, ih hm.2]
    · by_cases h2 : b = a
      · subst h2
        simpa [Memory.write] using
          Memory.read_put_same font b v m (Memory.read_of_lt font hm.2 (by omega))
      · simp only [Memory.write, h1, h2, if_false]
        refine Memory.read_put_same font a v _ (Memory.read_of_lt font (lo := b) ?_ (by omega))
        simp only [Memory.wfFrom, Bool.and_eq_true, decide_eq_true_eq]
        exact ⟨⟨⟨le_refl b, hm.1.1.2⟩, hm.1.2⟩, hm.2⟩

theorem Memory.wfFrom_mono (font : Vector Byte 80) {lo lo' : Nat} {m : Memory} (h : lo' ≤ lo)
    (hm : Memory.wfFrom font lo m = true) : Memory.wfFrom font lo' m = true := by
  cases m with
  | nil => rfl
  | cons d m =>
    obtain ⟨b, w⟩ := d
    simp only [Memory.wfFrom, Bool.and_eq_true, decide_eq_true_eq] at hm ⊢
    exact ⟨⟨⟨by omega, hm.1.1.2⟩, hm.1.2⟩, hm.2⟩

theorem Memory.wfFrom_put (font : Vector Byte 80) {lo a : Nat} (v : Byte) {m : Memory} (hlo : lo ≤ a)
    (ha : a < Config.memSize) (hm : Memory.wfFrom font (a + 1) m = true) :
    Memory.wfFrom font lo (Memory.put font a v m) = true := by
  by_cases hv : v = unlistedByte font a
  · simpa [Memory.put, hv] using Memory.wfFrom_mono font (by omega) hm
  · simp [Memory.put, hv, Memory.wfFrom, hlo, ha, hm]

/-- A write inside the array keeps the canonical form. -/
theorem Memory.wfFrom_write (font : Vector Byte 80) {lo a : Nat} (v : Byte) {m : Memory} (hlo : lo ≤ a)
    (ha : a < Config.memSize) (hm : Memory.wfFrom font lo m = true) :
    Memory.wfFrom font lo (Memory.write font a v m) = true := by
  induction m generalizing lo with
  | nil => exact Memory.wfFrom_put font v hlo ha rfl
  | cons d m ih =>
    obtain ⟨b, w⟩ := d
    simp only [Memory.wfFrom, Bool.and_eq_true, decide_eq_true_eq] at hm
    by_cases h1 : b < a
    · simp only [Memory.write, h1, if_true, Memory.wfFrom, Bool.and_eq_true, decide_eq_true_eq]
      exact ⟨⟨⟨hm.1.1.1, hm.1.1.2⟩, hm.1.2⟩, ih (by omega) hm.2⟩
    · by_cases h2 : b = a
      · subst h2
        simpa [Memory.write] using Memory.wfFrom_put font v hlo ha hm.2
      · simp only [Memory.write, h1, h2, if_false]
        refine Memory.wfFrom_put font v hlo ha ?_
        simp only [Memory.wfFrom, Bool.and_eq_true, decide_eq_true_eq]
        exact ⟨⟨⟨by omega, hm.1.1.2⟩, hm.1.2⟩, hm.2⟩

/-- A write inside the array keeps `Memory.wf`. -/
theorem Memory.wf_write (font : Vector Byte 80) {a : Nat} (v : Byte) {m : Memory} (ha : a < Config.memSize)
    (hm : Memory.wf font m = true) : Memory.wf font (Memory.write font a v m) = true :=
  Memory.wfFrom_write font v (Nat.zero_le a) ha hm

/-! ### Stores through the state -/

theorem setByte_byteAt_other (s : State) {a c : Nat} (v : Byte) (h : a ≠ c) :
    (s.setByte a v).byteAt c = s.byteAt c :=
  Memory.read_write_other s.font v s.mem h

theorem setByte_byteAt_same (s : State) (a : Nat) (v : Byte) (hs : s.memoryCanonical) :
    (s.setByte a v).byteAt a = v :=
  Memory.read_write_same s.font a v s.mem hs

theorem setByte_memoryCanonical (s : State) {a : Nat} (v : Byte) (ha : a < Config.memSize) (hs : s.memoryCanonical) :
    (s.setByte a v).memoryCanonical :=
  Memory.wf_write s.font v ha hs

/-- A store of several bytes changes memory and nothing else. -/
theorem setBytes_eq (s : State) (a : Nat) (vs : List Byte) : s.setBytes a vs = { s with mem := (s.setBytes a vs).mem } := by
  induction vs generalizing s a with
  | nil => rfl
  | cons v vs ih => rw [State.setBytes, ih]; rfl

theorem setBytes_memoryCanonical (s : State) (a : Nat) (vs : List Byte) (ha : a + vs.length ≤ Config.memSize)
    (hs : s.memoryCanonical) : (s.setBytes a vs).memoryCanonical := by
  induction vs generalizing s a with
  | nil => exact hs
  | cons v vs ih =>
    simp only [List.length_cons] at ha
    exact ih (s.setByte a v) (a + 1) (by omega) (setByte_memoryCanonical s v (by omega) hs)

/-- The bytes outside the stored run read as before. -/
theorem setBytes_byteAt_other (s : State) (a c : Nat) (vs : List Byte) (h : c < a ∨ a + vs.length ≤ c) :
    (s.setBytes a vs).byteAt c = s.byteAt c := by
  induction vs generalizing s a with
  | nil => rfl
  | cons v vs ih =>
    simp only [List.length_cons] at h
    rw [State.setBytes, ih _ _ (by omega), setByte_byteAt_other s v (by omega)]

/-- The stored run reads as the bytes stored. -/
theorem setBytes_byteAt_same (s : State) (a k : Nat) (vs : List Byte) (ha : a + vs.length ≤ Config.memSize)
    (hs : s.memoryCanonical) (hk : k < vs.length) : (s.setBytes a vs).byteAt (a + k) = vs[k] := by
  induction vs generalizing s a k with
  | nil => simp at hk
  | cons v vs ih =>
    simp only [List.length_cons] at ha hk
    have hc := setByte_memoryCanonical s v (a := a) (by omega) hs
    cases k with
    | zero =>
      rw [State.setBytes, setBytes_byteAt_other _ _ _ _ (by omega)]
      exact setByte_byteAt_same s a v hs
    | succ k =>
      have := ih (s.setByte a v) (a + 1) k (by omega) hc (by omega)
      rw [State.setBytes, show a + (k + 1) = a + 1 + k by omega]
      simpa using this

end Sys2Proof.Machine
end

