-- ==== Sys2Proof/Laws/Operands.lean ====
section
/-! SUPPORT. Registers: reading after writing, the runs of `FX55` and `FX65`, key indices, and the flag values. -/

namespace Sys2Proof.Machine

@[simp] theorem setReg_reg_same (s : State) (r : Reg) (v : Byte) : (s.setReg r v).reg r = v := by
  simp [State.reg]

theorem setReg_reg_of_ne (s : State) {r q : Reg} (v : Byte) (h : r ≠ q) : (s.setReg r v).reg q = s.reg q := by
  simp [State.reg, Vector.getElem_set_ne _ _ (fun e => h (Fin.ext e))]

theorem setReg_reg (s : State) (r q : Reg) (v : Byte) : (s.setReg r v).reg q = if r = q then v else s.reg q := by
  by_cases h : r = q
  · subst h; simp
  · simp [h, setReg_reg_of_ne s v h]

@[simp] theorem setFlag_reg_same (s : State) (b : Bool) : (s.setFlag b).reg 15 = flagByte b :=
  setReg_reg_same s 15 _

theorem setFlag_reg (s : State) (b : Bool) (q : Reg) : (s.setFlag b).reg q = if regF = q then flagByte b else s.reg q :=
  setReg_reg s regF q _

/-- Two states with the same registers have the same register file. -/
theorem V_ext {s t : State} (h : ∀ r, s.reg r = t.reg r) : s.V = t.V := by
  apply Vector.ext
  intro k hk
  exact h ⟨k, hk⟩

/-- A second write to a register leaves nothing of the first. -/
@[simp] theorem setReg_setReg (s : State) (r : Reg) (v w : Byte) : (s.setReg r v).setReg r w = s.setReg r w := by
  simp [State.setReg]

theorem setReg_comm (s : State) {r q : Reg} (v w : Byte) (h : r ≠ q) :
    (s.setReg r v).setReg q w = (s.setReg q w).setReg r v := by
  have : ((s.setReg r v).setReg q w).V = ((s.setReg q w).setReg r v).V := by
    apply V_ext
    intro p
    rw [setReg_reg, setReg_reg, setReg_reg, setReg_reg]
    by_cases h1 : q = p <;> by_cases h2 : r = p <;> simp_all
  unfold State.setReg at this ⊢
  simpa using this

theorem setRegRun_reg (s : State) (bs : List Byte) (r : Reg) :
    (s.setRegRun bs).reg r = (bs[r.val]?).getD (s.reg r) := by
  simp [State.setRegRun, State.reg]

@[simp] theorem regRun_length (s : State) (x : Reg) : (s.regRun x).length = x.val + 1 := by
  simp [State.regRun]

theorem regRun_getElem (s : State) (x : Reg) (k : Nat) (h : k < (s.regRun x).length) :
    (s.regRun x)[k] = s.reg ⟨k, by simp at h; omega⟩ := by
  simp [State.regRun, State.reg]

@[simp] theorem effectiveAddress_eq (s : State) (k : Nat) : s.effectiveAddress k = s.I.toNat + k := rfl

theorem keyIndex_of_lt {v : Byte} (h : v.toNat < 16) : keyIndex v = some ⟨v.toNat, h⟩ := by
  simp [keyIndex, h]

theorem keyIndex_of_le {v : Byte} (h : 16 ≤ v.toNat) : keyIndex v = none := by
  simp [keyIndex, Nat.not_lt.mpr h]

theorem keyIndex_cases (v : Byte) : (16 ≤ v.toNat ∧ keyIndex v = none) ∨ (∃ h : v.toNat < 16, keyIndex v = some ⟨v.toNat, h⟩) := by
  by_cases h : v.toNat < 16
  · exact .inr ⟨h, keyIndex_of_lt h⟩
  · exact .inl ⟨by omega, keyIndex_of_le (by omega)⟩

@[simp] theorem zextAddr_toNat (nnn : Addr) : (zextAddr nnn).toNat = nnn.toNat := by
  simp [zextAddr]
  omega

@[simp] theorem zextByte_toNat (v : Byte) : (zextByte v).toNat = v.toNat := by
  simp [zextByte]
  omega

theorem flagByte_toNat (b : Bool) : (flagByte b).toNat = if b then 1 else 0 := by
  cases b <;> rfl

end Sys2Proof.Machine
end

