-- ==== Sys2Proof/Laws/Ops.lean ====
section
/-! SUPPORT. What each shared operation can do, said once: the range check, runs of bytes, the call stack, the timers, the keypad scan, and the
end of a memory access. -/

namespace Sys2Proof.Machine

/-! ### The range check -/

theorem outOfRange_none {a n : Nat} (h : n = 0 ∨ a + (n - 1) ≤ 0xFFF) : outOfRange a n = none := by
  unfold outOfRange
  split
  · omega
  · rfl

theorem outOfRange_some {a n : Nat} (hn : 0 < n) (h : 0xFFF < a + (n - 1)) :
    outOfRange a n = some (BitVec.ofNat 16 (max a 0x1000)) := by
  simp [outOfRange, hn, h]

theorem outOfRange_cases (a n : Nat) :
    ((n = 0 ∨ a + (n - 1) ≤ 0xFFF) ∧ outOfRange a n = none) ∨
      ((0 < n ∧ 0xFFF < a + (n - 1)) ∧ outOfRange a n = some (BitVec.ofNat 16 (max a 0x1000))) := by
  by_cases h : 0 < n ∧ 0xFFF < a + (n - 1)
  · exact .inr ⟨h, outOfRange_some h.1 h.2⟩
  · exact .inl ⟨by omega, outOfRange_none (by omega)⟩

theorem readRun_ok (s : State) {a n : Nat} (h : n = 0 ∨ a + (n - 1) ≤ 0xFFF) :
    s.readRun a n = .ok ((List.range n).map fun k => s.byteAt (a + k)) := by
  simp [State.readRun, outOfRange_none h]

theorem readRun_error (s : State) {a n : Nat} (hn : 0 < n) (h : 0xFFF < a + (n - 1)) :
    s.readRun a n = .error (BitVec.ofNat 16 (max a 0x1000)) := by
  simp [State.readRun, outOfRange_some hn h]

theorem writeRun_ok (s : State) {a : Nat} {bs : List Byte} (h : bs.length = 0 ∨ a + (bs.length - 1) ≤ 0xFFF) :
    s.writeRun a bs = .ok (s.setBytes a bs) := by
  simp [State.writeRun, outOfRange_none h]

theorem writeRun_error (s : State) {a : Nat} {bs : List Byte} (hn : 0 < bs.length) (h : 0xFFF < a + (bs.length - 1)) :
    s.writeRun a bs = .error (BitVec.ofNat 16 (max a 0x1000)) := by
  simp [State.writeRun, outOfRange_some hn h]

/-- If a run of bytes is stored, it lay inside the array and the state is that of the stores. -/
theorem writeRun_cases {s t : State} {a : Nat} {bs : List Byte} (h : s.writeRun a bs = .ok t) :
    (bs.length = 0 ∨ a + (bs.length - 1) ≤ 0xFFF) ∧ t = s.setBytes a bs := by
  obtain ⟨hr, h'⟩ | ⟨⟨hn, hr⟩, h'⟩ := outOfRange_cases a bs.length
  · rw [writeRun_ok s hr] at h
    exact ⟨hr, by simpa using h.symm⟩
  · rw [writeRun_error s hn hr] at h
    cases h

@[simp] theorem readRun_getElem? (s : State) (a n k : Nat) :
    ((List.range n).map fun k => s.byteAt (a + k))[k]? = if k < n then some (s.byteAt (a + k)) else none := by
  by_cases h : k < n <;> simp [h]

/-! ### The end of a memory access -/

@[simp] theorem finishAccess_error (o n : Word) (s : State) :
    finishAccess o s (.error n) = .next (takeFault .memoryOutOfRange o n s) := rfl

@[simp] theorem finishAccess_ok (o : Word) (s t : State) : finishAccess o s (.ok t) = .next t.advance := rfl

/-! ### The call stack -/

theorem push_none {s : State} (v : Word) (h : s.sp.val = 16) : s.push v = none := by
  simp [State.push, h]

theorem push_some {s : State} (v : Word) (h : s.sp.val < 16) :
    s.push v = some { s with stack := s.stack.set s.sp.val v, sp := ⟨s.sp.val + 1, by omega⟩ } := by
  simp [State.push, h]

/-- If a push succeeds, there was room and only the stack has changed. -/
theorem push_cases {s t : State} {v : Word} (h : s.push v = some t) :
    ∃ h16 : s.sp.val < 16, t = { s with stack := s.stack.set s.sp.val v, sp := ⟨s.sp.val + 1, by omega⟩ } := by
  by_cases h16 : s.sp.val < 16
  · rw [push_some v h16] at h
    exact ⟨h16, by simpa using h.symm⟩
  · simp [State.push, h16] at h

theorem pop_none {s : State} (h : s.sp.val = 0) : s.pop = none := by
  simp [State.pop, h]

theorem pop_some {s : State} (h : 0 < s.sp.val) :
    s.pop = some (s.stack[s.sp.val - 1]'(by omega), { s with sp := ⟨s.sp.val - 1, by omega⟩ }) := by
  simp [State.pop, h]

/-- If a pop succeeds, the stack was not empty and only `sp` has changed. -/
theorem pop_cases {s t : State} {r : Word} (h : s.pop = some (r, t)) :
    ∃ h0 : 0 < s.sp.val, r = s.stack[s.sp.val - 1]'(by omega) ∧ t = { s with sp := ⟨s.sp.val - 1, by omega⟩ } := by
  by_cases h0 : 0 < s.sp.val
  · rw [pop_some h0] at h
    simp only [Option.some.injEq, Prod.mk.injEq] at h
    exact ⟨h0, h.1.symm, h.2.symm⟩
  · simp [State.pop, h0] at h

/-! ### The timers -/

theorem countDown_toNat (v : Byte) : (countDown v).toNat = v.toNat - 1 := by
  unfold countDown
  split
  · next h => subst h; rfl
  · next h =>
    have : v.toNat ≠ 0 := fun e => h (BitVec.eq_of_toNat_eq (by simpa using e))
    rw [BitVec.toNat_sub]
    have := v.isLt
    simp
    omega

/-! ### The keypad scan -/

theorem firstKey_none {s : State} : s.firstKey = none ↔ ∀ k, s.keyAt k = false := by
  simp [State.firstKey, List.find?_eq_none]

/-- The scan finds the least pressed key. -/
theorem firstKey_of_least {s : State} {k : Fin 16} (hk : s.keyAt k = true) (hl : ∀ j, j < k → s.keyAt j = false) :
    s.firstKey = some k := by
  unfold State.firstKey
  rw [List.find?_eq_some_iff_getElem]
  refine ⟨hk, k.val, by simp, by simp, fun j hj => ?_⟩
  have := hl ⟨j, by omega⟩ hj
  simpa using this

/-- A key that the scan finds is pressed. -/
theorem firstKey_pressed {s : State} {k : Fin 16} (h : s.firstKey = some k) : s.keyAt k = true := by
  simpa using List.find?_some h

end Sys2Proof.Machine
end

