-- ==== Sys2Proof/Laws/Exec.lean ====
section
/-! SUPPORT. What executing an instruction can do, said once for all 34: it takes a fault that names it, or it completes and keeps the control
state; and what each shared shape of meaning leaves. -/

namespace Sys2Proof.Machine

/-- The two ways an instruction ends: with a fault, whose record carries its own word, or completed, with the control state kept and a
canonical memory still canonical. -/
def ends (i : Instr) (s t : State) : Prop :=
  (∃ code info, code ≠ .noFault ∧ t = takeFault code (encode i) info s) ∨
    (keepsControl s t ∧ (s.memoryCanonical → t.memoryCanonical))

/-- A completed instruction that kept memory and the control state. -/
theorem ends_of_kept {i : Instr} {s t : State} (hm : t.mem = s.mem) (hf : t.font = s.font) (hk : t.key = s.key)
    (hl : t.loaded = s.loaded) (hh : t.halted = s.halted) (hr : t.fault = s.fault) (hb : t.beep = s.beep) : ends i s t :=
  .inr ⟨⟨hk, hl, hh, hr, hb, hf⟩, fun h => by simpa [State.memoryCanonical, hm, hf] using h⟩

theorem next_inj {s t : State} {r : Result} (h : r = .next t) (hr : r = .next s) : t = s := by
  rw [hr] at h
  injection h with h
  exact h.symm

/-- An instruction that ends in a stored run: out of range it faults, else the run is stored and `pc` advances. -/
theorem finishAccess_writeRun_cases {o : Word} {s t : State} {a : Nat} {bs : List Byte}
    (h : finishAccess o s (s.writeRun a bs) = .next t) :
    (∃ info, t = takeFault .memoryOutOfRange o info s) ∨
      ((bs.length = 0 ∨ a + (bs.length - 1) ≤ 0xFFF) ∧ t = (s.setBytes a bs).advance) := by
  cases hw : s.writeRun a bs with
  | error info =>
    rw [hw] at h
    exact .inl ⟨info, next_inj h rfl⟩
  | ok u =>
    obtain ⟨hr, rfl⟩ := writeRun_cases hw
    rw [hw] at h
    exact .inr ⟨hr, next_inj h rfl⟩

/-- An instruction that reads a run: out of range it faults, else it goes on with the bytes and `pc` advances. -/
theorem finishAccess_readRun_cases {o : Word} {s t : State} {a n : Nat} {f : List Byte → State}
    (h : finishAccess o s ((s.readRun a n).map f) = .next t) :
    (∃ info, t = takeFault .memoryOutOfRange o info s) ∨
      ((n = 0 ∨ a + (n - 1) ≤ 0xFFF) ∧ t = (f ((List.range n).map fun k => s.byteAt (a + k))).advance) := by
  obtain ⟨hr, _⟩ | ⟨⟨hn, hr⟩, _⟩ := outOfRange_cases a n
  · rw [readRun_ok s hr] at h
    exact .inr ⟨hr, next_inj h rfl⟩
  · rw [readRun_error s hn hr] at h
    exact .inl ⟨_, next_inj h rfl⟩

theorem ends_writeRun {i : Instr} {s t : State} {a : Nat} {bs : List Byte}
    (h : finishAccess (encode i) s (s.writeRun a bs) = .next t) : ends i s t := by
  obtain ⟨info, rfl⟩ | ⟨hr, rfl⟩ := finishAccess_writeRun_cases h
  · exact .inl ⟨_, _, by decide, rfl⟩
  · refine .inr ⟨?_, fun hc => ?_⟩
    · rw [setBytes_eq]
      exact ⟨rfl, rfl, rfl, rfl, rfl, rfl⟩
    · cases bs with
      | nil => exact hc
      | cons b bs =>
        simp only [List.length_cons] at hr
        exact setBytes_memoryCanonical s a (b :: bs) (by simp [Config.memSize]; omega) hc

theorem ends_readRun {i : Instr} {s t : State} {a n : Nat} {f : List Byte → State}
    (h : finishAccess (encode i) s ((s.readRun a n).map f) = .next t) (hf : ∀ bs, ends i s (f bs).advance) : ends i s t := by
  obtain ⟨info, rfl⟩ | ⟨_, rfl⟩ := finishAccess_readRun_cases h
  · exact .inl ⟨_, _, by decide, rfl⟩
  · exact hf _

theorem ends_skipOnKey {i : Instr} {s t : State} {x : Reg} {b : Bool}
    (h : skipOnKey (encode i) x b s = .next t) : ends i s t := by
  unfold skipOnKey at h
  split at h
  · exact .inl ⟨_, _, by decide, next_inj h rfl⟩
  · obtain rfl := next_inj h rfl
    exact ends_of_kept rfl rfl rfl rfl rfl rfl rfl

/-- Drawing writes the frame, `display_changed` and `VF`, and nothing else. -/
theorem drawSprite_eq (x y : Reg) (s : State) (bs : List Byte) :
    ∃ p : Blit, p = Blit.rows { frame := s.fb, collision := false } ((s.reg y).toNat % 32) ((s.reg x).toNat % 64) bs ∧
      drawSprite x y s bs = (s.setFlag p.collision).setFrame p.frame := ⟨_, rfl, rfl⟩

theorem ends_drawSprite (i : Instr) (x y : Reg) (s : State) (bs : List Byte) : ends i s (drawSprite x y s bs).advance := by
  obtain ⟨p, _, h⟩ := drawSprite_eq x y s bs
  rw [h]
  exact ends_of_kept rfl rfl rfl rfl rfl rfl rfl

theorem ends_setRegRun (i : Instr) (s : State) (bs : List Byte) : ends i s (s.setRegRun bs).advance :=
  ends_of_kept (by simp) (by simp) (by simp) (by simp) (by simp) (by simp) (by simp)

/-- Every instruction ends in one of the two ways. -/
theorem exec_ends {i : Instr} {s t : State} (h : exec i s = .next t) : ends i s t := by
  cases i with
  | call nnn =>
    simp only [exec, execCall] at h
    split at h
    · exact .inl ⟨_, _, by decide, next_inj h rfl⟩
    · next u hp =>
      obtain ⟨_, rfl⟩ := push_cases hp
      obtain rfl := next_inj h rfl
      exact ends_of_kept rfl rfl rfl rfl rfl rfl rfl
  | ret =>
    simp only [exec, execRet] at h
    split at h
    · exact .inl ⟨_, _, by decide, next_inj h rfl⟩
    · next r u hp =>
      obtain ⟨_, _, rfl⟩ := pop_cases hp
      obtain rfl := next_inj h rfl
      exact ends_of_kept rfl rfl rfl rfl rfl rfl rfl
  | ldVxK x =>
    simp only [exec, execLdVxK] at h
    split at h <;> (obtain rfl := next_inj h rfl; exact ends_of_kept rfl rfl rfl rfl rfl rfl rfl)
  | skp x => exact ends_skipOnKey h
  | sknp x => exact ends_skipOnKey h
  | ldB x => exact ends_writeRun h
  | stRegs x => exact ends_writeRun h
  | ldRegs x => exact ends_readRun h fun bs => ends_setRegRun _ s bs
  | drw x y n => exact ends_readRun h fun bs => ends_drawSprite _ x y s bs
  | _ => obtain rfl := next_inj h rfl; exact ends_of_kept rfl rfl rfl rfl rfl rfl rfl

end Sys2Proof.Machine
end

