-- ==== Sys2Proof/Laws/PerInstr.lean ====
section
/-! SUPPORT. Per instruction: its word stands in its own row of the opcode map (spec/30_encoding.md R64, R65). -/

namespace Sys2Proof

theorem encodeA_masked (op : BitVec 4) (nnn : Addr) : encodeA op nnn &&& 0xF000 = encodeA op 0 := by
  rw [mask_F000, opField_encodeA]

theorem encodeXI_masked (op : BitVec 4) (x : Reg) (nn : Byte) : encodeXI op x nn &&& 0xF000 = encodeA op 0 := by
  rw [mask_F000, opField_encodeXI]

theorem encodeXF_masked (op : BitVec 4) (x : Reg) (nn : Byte) : encodeXI op x nn &&& 0xF0FF = encodeXI op 0 nn := by
  rw [mask_F0FF, opField_encodeXI, nnField_encodeXI]

theorem encodeXY_masked (op : BitVec 4) (x y : Reg) (n : Nibble) :
    encodeXYN op x y n &&& 0xF00F = encodeXYN op 0 0 n := by
  rw [mask_F00F, opField_encodeXYN, nField_encodeXYN]

theorem encodeXYN_masked (op : BitVec 4) (x y : Reg) (n : Nibble) : encodeXYN op x y n &&& 0xF000 = encodeA op 0 := by
  rw [mask_F000, opField_encodeXYN]

end Sys2Proof

/-- The row of the opcode map that carries the instruction's mnemonic selects the instruction's word. -/
def Sys2Proof.Laws.EncodesInRow.Statement (i : Sys2Proof.Instr) : Prop :=
  ∃ row ∈ Sys2Proof.opcodeTable, row.mnemonic = i.mnemonic ∧ row.selects (Sys2Proof.encode i) = true

namespace Sys2Proof.Laws.EncodesInRow

/-- One row, one mask lemma. -/
theorem of_masked {i : Instr} {m v w : Word} (row : OpcodeRow) (hr : row ∈ opcodeTable) (hm : row.mnemonic = i.mnemonic)
    (hmask : row.mask = m) (hw : encode i &&& m = w) (hv : row.value = v) (h : w = v) : Statement i :=
  ⟨row, hr, hm, by simp [OpcodeRow.selects, hmask, hw, hv, h]⟩

theorem cls : Statement (.cls) :=
  of_masked ⟨"CLS", 0xFFFF, 0x00E0⟩ (by decide) rfl rfl (mask_FFFF _) rfl (by decide)

theorem ret : Statement (.ret) :=
  of_masked ⟨"RET", 0xFFFF, 0x00EE⟩ (by decide) rfl rfl (mask_FFFF _) rfl (by decide)

theorem jp (nnn : Addr) : Statement (.jp nnn) :=
  of_masked ⟨"JP", 0xF000, 0x1000⟩ (by decide) rfl rfl (encodeA_masked _ _) rfl (by decide)

theorem call (nnn : Addr) : Statement (.call nnn) :=
  of_masked ⟨"CALL", 0xF000, 0x2000⟩ (by decide) rfl rfl (encodeA_masked _ _) rfl (by decide)

theorem seImm (x : Reg) (nn : Byte) : Statement (.seImm x nn) :=
  of_masked ⟨"SE_IMM", 0xF000, 0x3000⟩ (by decide) rfl rfl (encodeXI_masked _ _ _) rfl (by decide)

theorem sneImm (x : Reg) (nn : Byte) : Statement (.sneImm x nn) :=
  of_masked ⟨"SNE_IMM", 0xF000, 0x4000⟩ (by decide) rfl rfl (encodeXI_masked _ _ _) rfl (by decide)

theorem seReg (x y : Reg) : Statement (.seReg x y) :=
  of_masked ⟨"SE_REG", 0xF00F, 0x5000⟩ (by decide) rfl rfl (encodeXY_masked _ _ _ _) rfl (by decide)

theorem ldImm (x : Reg) (nn : Byte) : Statement (.ldImm x nn) :=
  of_masked ⟨"LD_IMM", 0xF000, 0x6000⟩ (by decide) rfl rfl (encodeXI_masked _ _ _) rfl (by decide)

theorem addImm (x : Reg) (nn : Byte) : Statement (.addImm x nn) :=
  of_masked ⟨"ADD_IMM", 0xF000, 0x7000⟩ (by decide) rfl rfl (encodeXI_masked _ _ _) rfl (by decide)

theorem ldReg (x y : Reg) : Statement (.ldReg x y) :=
  of_masked ⟨"LD_REG", 0xF00F, 0x8000⟩ (by decide) rfl rfl (encodeXY_masked _ _ _ _) rfl (by decide)

theorem or (x y : Reg) : Statement (.or x y) :=
  of_masked ⟨"OR", 0xF00F, 0x8001⟩ (by decide) rfl rfl (encodeXY_masked _ _ _ _) rfl (by decide)

theorem and (x y : Reg) : Statement (.and x y) :=
  of_masked ⟨"AND", 0xF00F, 0x8002⟩ (by decide) rfl rfl (encodeXY_masked _ _ _ _) rfl (by decide)

theorem xor (x y : Reg) : Statement (.xor x y) :=
  of_masked ⟨"XOR", 0xF00F, 0x8003⟩ (by decide) rfl rfl (encodeXY_masked _ _ _ _) rfl (by decide)

theorem addReg (x y : Reg) : Statement (.addReg x y) :=
  of_masked ⟨"ADD_REG", 0xF00F, 0x8004⟩ (by decide) rfl rfl (encodeXY_masked _ _ _ _) rfl (by decide)

theorem sub (x y : Reg) : Statement (.sub x y) :=
  of_masked ⟨"SUB", 0xF00F, 0x8005⟩ (by decide) rfl rfl (encodeXY_masked _ _ _ _) rfl (by decide)

theorem shr (x y : Reg) : Statement (.shr x y) :=
  of_masked ⟨"SHR", 0xF00F, 0x8006⟩ (by decide) rfl rfl (encodeXY_masked _ _ _ _) rfl (by decide)

theorem subn (x y : Reg) : Statement (.subn x y) :=
  of_masked ⟨"SUBN", 0xF00F, 0x8007⟩ (by decide) rfl rfl (encodeXY_masked _ _ _ _) rfl (by decide)

theorem shl (x y : Reg) : Statement (.shl x y) :=
  of_masked ⟨"SHL", 0xF00F, 0x800E⟩ (by decide) rfl rfl (encodeXY_masked _ _ _ _) rfl (by decide)

theorem sneReg (x y : Reg) : Statement (.sneReg x y) :=
  of_masked ⟨"SNE_REG", 0xF00F, 0x9000⟩ (by decide) rfl rfl (encodeXY_masked _ _ _ _) rfl (by decide)

theorem ldI (nnn : Addr) : Statement (.ldI nnn) :=
  of_masked ⟨"LD_I", 0xF000, 0xA000⟩ (by decide) rfl rfl (encodeA_masked _ _) rfl (by decide)

theorem jpV0 (nnn : Addr) : Statement (.jpV0 nnn) :=
  of_masked ⟨"JP_V0", 0xF000, 0xB000⟩ (by decide) rfl rfl (encodeA_masked _ _) rfl (by decide)

theorem rnd (x : Reg) (nn : Byte) : Statement (.rnd x nn) :=
  of_masked ⟨"RND", 0xF000, 0xC000⟩ (by decide) rfl rfl (encodeXI_masked _ _ _) rfl (by decide)

theorem drw (x y : Reg) (n : Nibble) : Statement (.drw x y n) :=
  of_masked ⟨"DRW", 0xF000, 0xD000⟩ (by decide) rfl rfl (encodeXYN_masked _ _ _ _) rfl (by decide)

theorem skp (x : Reg) : Statement (.skp x) :=
  of_masked ⟨"SKP", 0xF0FF, 0xE09E⟩ (by decide) rfl rfl (encodeXF_masked _ _ _) rfl (by decide)

theorem sknp (x : Reg) : Statement (.sknp x) :=
  of_masked ⟨"SKNP", 0xF0FF, 0xE0A1⟩ (by decide) rfl rfl (encodeXF_masked _ _ _) rfl (by decide)

theorem ldVxDt (x : Reg) : Statement (.ldVxDt x) :=
  of_masked ⟨"LD_VX_DT", 0xF0FF, 0xF007⟩ (by decide) rfl rfl (encodeXF_masked _ _ _) rfl (by decide)

theorem ldVxK (x : Reg) : Statement (.ldVxK x) :=
  of_masked ⟨"LD_VX_K", 0xF0FF, 0xF00A⟩ (by decide) rfl rfl (encodeXF_masked _ _ _) rfl (by decide)

theorem ldDtVx (x : Reg) : Statement (.ldDtVx x) :=
  of_masked ⟨"LD_DT_VX", 0xF0FF, 0xF015⟩ (by decide) rfl rfl (encodeXF_masked _ _ _) rfl (by decide)

theorem ldStVx (x : Reg) : Statement (.ldStVx x) :=
  of_masked ⟨"LD_ST_VX", 0xF0FF, 0xF018⟩ (by decide) rfl rfl (encodeXF_masked _ _ _) rfl (by decide)

theorem addI (x : Reg) : Statement (.addI x) :=
  of_masked ⟨"ADD_I", 0xF0FF, 0xF01E⟩ (by decide) rfl rfl (encodeXF_masked _ _ _) rfl (by decide)

theorem ldF (x : Reg) : Statement (.ldF x) :=
  of_masked ⟨"LD_F", 0xF0FF, 0xF029⟩ (by decide) rfl rfl (encodeXF_masked _ _ _) rfl (by decide)

theorem ldB (x : Reg) : Statement (.ldB x) :=
  of_masked ⟨"LD_B", 0xF0FF, 0xF033⟩ (by decide) rfl rfl (encodeXF_masked _ _ _) rfl (by decide)

theorem stRegs (x : Reg) : Statement (.stRegs x) :=
  of_masked ⟨"ST_REGS", 0xF0FF, 0xF055⟩ (by decide) rfl rfl (encodeXF_masked _ _ _) rfl (by decide)

theorem ldRegs (x : Reg) : Statement (.ldRegs x) :=
  of_masked ⟨"LD_REGS", 0xF0FF, 0xF065⟩ (by decide) rfl rfl (encodeXF_masked _ _ _) rfl (by decide)

end Sys2Proof.Laws.EncodesInRow
end

