-- ==== Sys2Proof/Laws/Step.lean ====
section
/-! SUPPORT. What one cycle can do, said once: the fetch, and the four ways a cycle ends. -/

namespace Sys2Proof.Machine

/-- A fetch inside the array gives the two bytes at `pc`, the high byte first. -/
theorem fetchWord_ok {s : State} (h : s.pc.toNat ≤ 0xFFE) :
    s.fetchWord = .ok (wordOfBytes (s.byteAt s.pc.toNat) (s.byteAt (s.pc.toNat + 1))) := by
  simp only [State.fetchWord, outOfRange_none (a := s.pc.toNat) (n := 2) (by omega)]

/-- A fetch that leaves the array names the lowest address outside it. -/
theorem fetchWord_error {s : State} (h : 0xFFE < s.pc.toNat) :
    s.fetchWord = .error (BitVec.ofNat 16 (max s.pc.toNat 0x1000)) := by
  simp only [State.fetchWord, outOfRange_some (a := s.pc.toNat) (n := 2) (by omega) (by omega)]

/-- The start of a cycle is invisible to the fetch. -/
@[simp] theorem beginCycle_fetchWord (s : State) : (beginCycle s).fetchWord = s.fetchWord := rfl

/-- The four ways a cycle ends in a next state: it was a no-op, the fetch faulted, the word is unknown, or its instruction was executed and
the tick followed unless the instruction faulted. -/
theorem step_cases {s t : State} (h : step s = .next t) :
    (runnable s = false ∧ t = noopCycle s) ∨
    (runnable s = true ∧
      ((∃ info, s.fetchWord = .error info ∧ t = takeFault .memoryOutOfRange 0 info (beginCycle s)) ∨
       (∃ w e, s.fetchWord = .ok w ∧ decodeWord w = .error e ∧ t = takeFault .unknownInstruction w 0 (beginCycle s)) ∨
       (∃ w i u, s.fetchWord = .ok w ∧ decodeWord w = .ok i ∧ exec i (beginCycle s) = .next u ∧ t = finishCycle u))) := by
  unfold step at h
  by_cases hr : runnable s = true
  · refine .inr ⟨hr, ?_⟩
    simp only [hr, if_true, fetchDecode, beginCycle_fetchWord] at h
    cases hf : s.fetchWord with
    | error info =>
      simp only [hf] at h
      exact .inl ⟨info, rfl, next_inj h rfl⟩
    | ok w =>
      simp only [hf] at h
      cases hd : decodeWord w with
      | error e =>
        simp only [hd] at h
        exact .inr (.inl ⟨w, e, rfl, hd, next_inj h rfl⟩)
      | ok i =>
        simp only [hd] at h
        cases hu : exec i (beginCycle s) with
        | next u =>
          simp only [hu] at h
          exact .inr (.inr ⟨w, i, u, rfl, hd, hu, next_inj h rfl⟩)
        | fault r => cases r
        | refused r => simp [hu] at h
  · simp only [hr] at h
    exact .inl ⟨by simpa using hr, next_inj h rfl⟩

end Sys2Proof.Machine
end

