-- ==== Sys2Proof/Tests/Slice0.lean ====
section
/-! SUPPORT. The model's own tests. Expected results come from the spec: the encodings of spec/30_encoding.md R65 written out by hand, and the
vectors T<n> and examples S<n> of spec/95_test_vectors.md, named in each test. The last part gives, for every statement with hypotheses, a
concrete state and operands that meet them, each clause at the boundary values of its range. -/

open Sys2Proof.Machine

namespace Sys2Proof.Tests

/-- The start state of the vectors of spec/95_test_vectors.md: reset, a program loaded, the word `w` at 0x200. -/
def ready (w : Nat) : State := State.reset.withFetchWord 16 w

/-- The state after one cycle. -/
def after (s : State) : State :=
  match step s with
  | .next t => t
  | .fault _ => s
  | .refused _ => s

/-! ### What is refused before the machine: words and images -/

/-- One word of each of R66's six groups is refused (T80, T83, T84, T86, T87, T89). -/
theorem test_unknown_words_are_refused :
    ([0x0000, 0x5121, 0x8AB8, 0x9001, 0xE09F, 0xF000] : List Word).all (fun w => !wordWellFormed w) = true := by decide

theorem test_neighbours_of_cls_and_ret_are_refused :
    ([0x00E1, 0x0123, 0x00EF, 0x01EE] : List Word).all (fun w => !wordWellFormed w) = true := by decide

theorem test_word_of_a_row_is_accepted : wordWellFormed 0x8AB4 = true := by decide

/-- T123: 3585 bytes are refused; T122: 3584 are not. -/
theorem test_oversized_image_is_refused : imageWellFormed (List.replicate 3585 0xAA) = false := by
  rw [imageWellFormed, List.length_replicate]
  decide

theorem test_largest_image_is_accepted : imageWellFormed (List.replicate 3584 0x01) = true := by
  rw [imageWellFormed, List.length_replicate]
  decide

/-- The operand checks accept every operand, the largest included (R61, R63). -/
theorem test_largest_operands_are_accepted :
    (Instr.drw 15 15 15).wellFormed = true ∧ (Instr.jp 0xFFF).wellFormed = true ∧ (Instr.rnd 15 0xFF).wellFormed = true := by
  decide

/-- 34 rows, pairwise disjoint (R64, R65). -/
theorem test_opcode_map_is_disjoint :
    opcodeTable.length = 34 ∧
      opcodeTable.Pairwise (fun r q => r.value &&& (r.mask &&& q.mask) ≠ q.value &&& (r.mask &&& q.mask)) := by decide

/-! ### Decoding: one word of every row, written out from its pattern -/

theorem test_decode_cls : decodeTableWord 16 0x00E0 = some .cls := by decide
theorem test_decode_ret : decodeTableWord 16 0x00EE = some .ret := by decide
theorem test_decode_jp : decodeTableWord 16 0x1234 = some (.jp 0x234) := by decide
theorem test_decode_call : decodeTableWord 16 0x2345 = some (.call 0x345) := by decide
theorem test_decode_se_imm : decodeTableWord 16 0x3A05 = some (.seImm 0xA 0x05) := by decide
theorem test_decode_sne_imm : decodeTableWord 16 0x4BC6 = some (.sneImm 0xB 0xC6) := by decide
theorem test_decode_se_reg : decodeTableWord 16 0x5120 = some (.seReg 0x1 0x2) := by decide
theorem test_decode_ld_imm : decodeTableWord 16 0x6AFF = some (.ldImm 0xA 0xFF) := by decide
theorem test_decode_add_imm : decodeTableWord 16 0x7A05 = some (.addImm 0xA 0x05) := by decide
theorem test_decode_ld_reg : decodeTableWord 16 0x8AB0 = some (.ldReg 0xA 0xB) := by decide
theorem test_decode_or : decodeTableWord 16 0x8AB1 = some (.or 0xA 0xB) := by decide
theorem test_decode_and : decodeTableWord 16 0x8AB2 = some (.and 0xA 0xB) := by decide
theorem test_decode_xor : decodeTableWord 16 0x8AB3 = some (.xor 0xA 0xB) := by decide
theorem test_decode_add_reg : decodeTableWord 16 0x8AB4 = some (.addReg 0xA 0xB) := by decide
theorem test_decode_sub : decodeTableWord 16 0x8125 = some (.sub 0x1 0x2) := by decide
theorem test_decode_shr : decodeTableWord 16 0x8126 = some (.shr 0x1 0x2) := by decide
theorem test_decode_subn : decodeTableWord 16 0x8127 = some (.subn 0x1 0x2) := by decide
theorem test_decode_shl : decodeTableWord 16 0x812E = some (.shl 0x1 0x2) := by decide
theorem test_decode_sne_reg : decodeTableWord 16 0x9120 = some (.sneReg 0x1 0x2) := by decide
theorem test_decode_ld_i : decodeTableWord 16 0xA2F0 = some (.ldI 0x2F0) := by decide
theorem test_decode_jp_v0 : decodeTableWord 16 0xB300 = some (.jpV0 0x300) := by decide
theorem test_decode_rnd : decodeTableWord 16 0xC30F = some (.rnd 0x3 0x0F) := by decide
theorem test_decode_drw : decodeTableWord 16 0xD015 = some (.drw 0x0 0x1 0x5) := by decide
theorem test_decode_skp : decodeTableWord 16 0xE19E = some (.skp 0x1) := by decide
theorem test_decode_sknp : decodeTableWord 16 0xE1A1 = some (.sknp 0x1) := by decide
theorem test_decode_ld_vx_dt : decodeTableWord 16 0xF407 = some (.ldVxDt 0x4) := by decide
theorem test_decode_ld_vx_k : decodeTableWord 16 0xF30A = some (.ldVxK 0x3) := by decide
theorem test_decode_ld_dt_vx : decodeTableWord 16 0xF515 = some (.ldDtVx 0x5) := by decide
theorem test_decode_ld_st_vx : decodeTableWord 16 0xF618 = some (.ldStVx 0x6) := by decide
theorem test_decode_add_i : decodeTableWord 16 0xF21E = some (.addI 0x2) := by decide
theorem test_decode_ld_f : decodeTableWord 16 0xF429 = some (.ldF 0x4) := by decide
theorem test_decode_ld_b : decodeTableWord 16 0xF333 = some (.ldB 0x3) := by decide
theorem test_decode_st_regs : decodeTableWord 16 0xF255 = some (.stRegs 0x2) := by decide
theorem test_decode_ld_regs : decodeTableWord 16 0xF365 = some (.ldRegs 0x3) := by decide
theorem test_decode_unknown : decodeTableWord 16 0x8AB8 = none := by decide
theorem test_decode_truncated : decode [0x12] = .error .truncated := rfl

/-- The encoder writes the same words. -/
theorem test_encode :
    encode (.addReg 0xA 0xB) = 0x8AB4 ∧ encode (.drw 0x0 0x1 0x5) = 0xD015 ∧ encode (.ldRegs 0x3) = 0xF365 ∧
      encode (.jp 0x234) = 0x1234 ∧ encode (.rnd 0x3 0x0F) = 0xC30F := by decide

/-! ### Reset, the font, and the host's side -/

/-- T120 with the default `FONT`: its first and last byte, and the bytes around it. -/
theorem test_reset_font :
    State.reset.byteAt 0x04F = 0x00 ∧ State.reset.byteAt 0x050 = 0xF0 ∧ State.reset.byteAt 0x09F = 0x80 ∧
      State.reset.byteAt 0x0A0 = 0x00 := by decide

/-- R44's row of the digit 5, at 0x069 (P6). -/
theorem test_font_digit_5 :
    (List.range 5).map (fun k => State.reset.byteAt (0x069 + k)) = [0xF0, 0x80, 0xF0, 0x10, 0xF0] := by decide

/-- A write of the value that an address reads as removes its entry. -/
theorem test_memory_form_is_canonical :
    ((State.reset.setByte 0x300 0x12).setByte 0x300 0x00).mem = [] ∧ (State.reset.setByte 0x050 0xF0).mem = [] ∧
      ((State.reset.setByte 0x300 1).setByte 0x200 2).mem = [(0x200, 2), (0x300, 1)] := by decide

/-- T99: a `LOAD` while halted writes memory and leaves `halted` and the record. -/
theorem test_load_while_halted :
    let s := after (ready 0x00EE)
    let t := (load [0x60, 0x01] s).1
    t.byteAt 0x200 = 0x60 ∧ t.byteAt 0x201 = 0x01 ∧ t.halted = true ∧ t.fault = s.fault ∧ (after t).reg 0 = 0 := by decide

/-- T95, T96: `CYCLE` is a no-op. -/
theorem test_noop : after State.reset = State.reset ∧ after (after (ready 0x00EE)) = after (ready 0x00EE) := by decide

/-! ### One step of each instruction -/

/-- T77. -/
theorem test_cls :
    let t := after ({ (ready 0x00E0).setFlag true with fb := ((Blit.mk blankFrame false).flip 3 4).frame })
    t.fb = blankFrame ∧ t.displayChanged = true ∧ t.reg regF = 1 ∧ t.pc = 0x202 := by decide

/-- T3, T4, T5. -/
theorem test_call :
    let t := after (ready 0x2300)
    t.stack[0] = 0x200 ∧ t.sp = 1 ∧ t.pc = 0x300 ∧
      (after { ready 0x2300 with sp := 15 }).sp = 16 ∧ (after { ready 0x2300 with sp := 15 }).stack[15] = 0x200 := by decide

theorem test_call_overflow :
    (after { ready 0x2300 with sp := 16 }).fault = ⟨.stackOverflow, 0x200, 0x2300, 0⟩ ∧
      (after { ready 0x2300 with sp := 16 }).sp = 16 := by decide

/-- T6, T7. -/
theorem test_ret :
    let t := after ({ State.reset with pc := 0x300, sp := 1, stack := State.reset.stack.set 0 0x200 }.withFetchWord 16 0x00EE)
    t.sp = 0 ∧ t.pc = 0x202 := by decide

theorem test_ret_underflow :
    (after (ready 0x00EE)).fault = ⟨.stackUnderflow, 0x200, 0x00EE, 0⟩ ∧ (after (ready 0x00EE)).halted = true ∧
      (after (ready 0x00EE)).pc = 0x200 := by decide

/-- T1, T2. -/
theorem test_jp : (after (ready 0x1234)).pc = 0x234 ∧ (after (ready 0x1200)).pc = 0x200 := by decide

/-- T19, T19a. -/
theorem test_jp_v0 :
    (after ((ready 0xB300).setReg 0 0x04)).pc = 0x304 ∧ (after ((ready 0xBFFF).setReg 0 0xFF)).pc = 0x10FE := by decide

/-- T8, T9, T18. -/
theorem test_se_imm :
    (after ((ready 0x3A05).setReg 0xA 0x05)).pc = 0x204 ∧ (after ((ready 0x3A05).setReg 0xA 0x06)).pc = 0x202 ∧
      (after ((ready 0x3F01).setReg 0xF 0x01)).pc = 0x204 := by decide

/-- T10, T11. -/
theorem test_sne_imm :
    (after ((ready 0x4A05).setReg 0xA 0x05)).pc = 0x202 ∧ (after ((ready 0x4A05).setReg 0xA 0x06)).pc = 0x204 := by decide

/-- T12, T13. -/
theorem test_se_reg :
    (after (((ready 0x5120).setReg 1 0x33).setReg 2 0x33)).pc = 0x204 ∧
      (after (((ready 0x5120).setReg 1 0x33).setReg 2 0x34)).pc = 0x202 := by decide

/-- T14, T15. -/
theorem test_sne_reg :
    (after (((ready 0x9120).setReg 1 0x33).setReg 2 0x34)).pc = 0x204 ∧
      (after (((ready 0x9120).setReg 1 0x33).setReg 2 0x33)).pc = 0x202 := by decide

/-- T49e. -/
theorem test_ld_imm : (after (ready 0x6A2C)).reg 0xA = 0x2C ∧ (after (ready 0x6A2C)).pc = 0x202 := by decide

/-- T49f, T49g, T49h. -/
theorem test_add_imm :
    let t := after ((ready 0x7A05).setReg 0xA 0xFE)
    t.reg 0xA = 0x03 ∧ t.reg regF = 0 ∧ (after (ready 0x7AFF)).reg 0xA = 0xFF ∧
      (after ((ready 0x7F01).setReg 0xF 0xFF)).reg regF = 0 := by decide

/-- T49i. -/
theorem test_ld_reg :
    let t := after (((ready 0x8AB0).setReg 0xA 0x01).setReg 0xB 0x77)
    t.reg 0xA = 0x77 ∧ t.reg 0xB = 0x77 := by decide

/-- T49j, T49k, T49l. -/
theorem test_or :
    let t := after ((((ready 0x8AB1).setReg 0xA 0x0F).setReg 0xB 0xF0).setReg 0xF 0x01)
    t.reg 0xA = 0xFF ∧ t.reg regF = 1 := by decide

theorem test_and :
    let t := after ((((ready 0x8AB2).setReg 0xA 0x3C).setReg 0xB 0x0F).setReg 0xF 0x01)
    t.reg 0xA = 0x0C ∧ t.reg regF = 1 := by decide

theorem test_xor :
    let t := after ((((ready 0x8AB3).setReg 0xA 0xFF).setReg 0xB 0x0F).setReg 0xF 0x01)
    t.reg 0xA = 0xF0 ∧ t.reg regF = 1 := by decide

/-- T20, T22 (S3); T26, T28. -/
theorem test_add_reg :
    let t := after (((ready 0x8124).setReg 1 0xC8).setReg 2 0x64)
    let u := after (((ready 0x8124).setReg 1 0xFF).setReg 2 0x01)
    t.reg 1 = 0x2C ∧ t.reg regF = 1 ∧ u.reg 1 = 0 ∧ u.reg regF = 1 := by decide

theorem test_add_reg_flag_operand :
    let t := after (((ready 0x8F24).setReg 0xF 0xF0).setReg 2 0x20)
    let u := after (((ready 0x81F4).setReg 1 0xFF).setReg 0xF 0x01)
    t.reg regF = 1 ∧ u.reg 1 = 0 ∧ u.reg regF = 1 := by decide

/-- T30 (S4), T32; T35, T38. -/
theorem test_sub :
    let t := after (((ready 0x8125).setReg 1 0x05).setReg 2 0x0A)
    let u := after (((ready 0x8125).setReg 1 0x07).setReg 2 0x07)
    t.reg 1 = 0xFB ∧ t.reg regF = 0 ∧ u.reg 1 = 0 ∧ u.reg regF = 0 := by decide

theorem test_sub_flag_operand :
    let t := after (((ready 0x8F25).setReg 0xF 0x05).setReg 2 0x03)
    let u := after (((ready 0x81F5).setReg 1 0x05).setReg 0xF 0x03)
    t.reg regF = 0xFE ∧ u.reg 1 = 0x04 ∧ u.reg regF = 1 := by decide

/-- T46, T47; T48a, T48b. -/
theorem test_subn :
    let t := after (((ready 0x8127).setReg 1 0x05).setReg 2 0x0A)
    let u := after (((ready 0x8127).setReg 1 0x0A).setReg 2 0x05)
    t.reg 1 = 0x05 ∧ t.reg regF = 1 ∧ u.reg 1 = 0xFB ∧ u.reg regF = 0 := by decide

theorem test_subn_flag_operand :
    let t := after (((ready 0x8F27).setReg 0xF 0x03).setReg 2 0x05)
    let u := after (((ready 0x81F7).setReg 1 0x03).setReg 0xF 0x05)
    t.reg regF = 0x04 ∧ u.reg 1 = 0xFE ∧ u.reg regF = 1 := by decide

/-- T44, T45. -/
theorem test_shr :
    let t := after (((ready 0x8126).setReg 1 0xFF).setReg 2 0x12)
    t.reg 1 = 0x7F ∧ t.reg regF = 1 ∧ t.reg 2 = 0x12 ∧ (after ((ready 0x8F06).setReg 0xF 0x03)).reg regF = 0 := by decide

/-- T49, T49d. -/
theorem test_shl :
    let t := after ((ready 0x812E).setReg 1 0x81)
    t.reg 1 = 0x02 ∧ t.reg regF = 1 ∧ (after ((ready 0x8F0E).setReg 0xF 0xC1)).reg regF = 2 := by decide

/-- T49o: the mask 0x00 gives 0 whatever the draw; and the draw is used up. -/
theorem test_rnd : (after (ready 0xC300)).reg 3 = 0 ∧ (after (ready 0xC300)).draws = 1 ∧ (after (ready 0xC300)).pc = 0x202 := by
  refine ⟨?_, rfl, rfl⟩
  show State.randByte _ &&& (0x00 : Byte) = 0
  exact BitVec.and_zero

/-- T51. -/
theorem test_ld_i : (after (ready 0xA2F0)).I = 0x2F0 := by decide

/-- T52, T52a; T52c, T52f. -/
theorem test_add_i :
    let t := after ((({ ready 0xF21E with I := 0x300 }).setReg 2 0x10).setReg 0xF 0x07)
    let u := after (({ ready 0xF21E with I := 0xFFF }).setReg 2 0x01)
    t.I = 0x310 ∧ t.reg regF = 0 ∧ u.I = 0x1000 ∧ u.reg regF = 1 := by decide

theorem test_add_i_corners :
    let t := after (({ ready 0xF21E with I := 0xFFFF }).setReg 2 0x01)
    let u := after (({ ready 0xFF1E with I := 0xFF0 }).setReg 0xF 0x10)
    t.I = 0 ∧ t.reg regF = 1 ∧ u.I = 0x1000 ∧ u.reg regF = 1 := by decide

/-- T53. -/
theorem test_ld_f :
    (after ((ready 0xF429).setReg 4 0x0A)).I = 0x082 ∧ (after ((ready 0xF429).setReg 4 0x10)).I = 0x0A0 ∧
      (after ((ready 0xF429).setReg 4 0xFF)).I = 0x54B := by decide

/-- T50 (S7), T50d; T50e, T50f. -/
theorem test_ld_b :
    let t := after (({ ready 0xF333 with I := 0x300 }).setReg 3 0x9C)
    let u := after (({ ready 0xF333 with I := 0xFFD }).setReg 3 0x7B)
    t.mem = [(0x200, 0xF3), (0x201, 0x33), (0x300, 1), (0x301, 5), (0x302, 6)] ∧ t.I = 0x300 ∧
      u.mem = [(0x200, 0xF3), (0x201, 0x33), (0xFFD, 1), (0xFFE, 2), (0xFFF, 3)] := by decide

theorem test_ld_b_out_of_range :
    let t := after (({ ready 0xF333 with I := 0xFFE }).setReg 3 0x01)
    t.fault = ⟨.memoryOutOfRange, 0x200, 0xF333, 0x1000⟩ ∧ t.mem = (ready 0xF333).mem ∧
      (after { ready 0xF333 with I := 0x1234 }).fault = ⟨.memoryOutOfRange, 0x200, 0xF333, 0x1234⟩ := by decide

/-- T54; T56, T56a. -/
theorem test_st_regs :
    let t := after (({ ready 0xF255 with I := 0x400 }).setRegRun [0x11, 0x22, 0x33, 0x44])
    t.mem = [(0x200, 0xF2), (0x201, 0x55), (0x400, 0x11), (0x401, 0x22), (0x402, 0x33)] ∧ t.I = 0x400 := by decide

theorem test_st_regs_range :
    (after { ready 0xFF55 with I := 0xFF1 }).fault = ⟨.memoryOutOfRange, 0x200, 0xFF55, 0x1000⟩ ∧
      (after (({ ready 0xF055 with I := 0xFFF }).setReg 0 0xA0)).byteAt 0xFFF = 0xA0 := by decide

/-- T57; T59. -/
theorem test_ld_regs :
    let t := after ((({ ready 0xF165 with I := 0x400 }).setBytes 0x400 [0xAA, 0xBB, 0xCC]).setReg 2 0x77)
    t.reg 0 = 0xAA ∧ t.reg 1 = 0xBB ∧ t.reg 2 = 0x77 ∧ t.I = 0x400 := by decide

theorem test_ld_regs_out_of_range :
    let t := after (({ ready 0xF165 with I := 0xFFF }).setReg 1 0x09)
    t.fault = ⟨.memoryOutOfRange, 0x200, 0xF165, 0x1000⟩ ∧ t.reg 1 = 0x09 := by decide

/-- T62 and T63: clipped at the right and at the bottom edge. -/
theorem test_drw_clips :
    let t := after ((({ ready 0xD011 with I := 0x300 }).setByte 0x300 0xFF).setReg 0 0x3C)
    let u := after ((({ ready 0xD015 with I := 0x300 }).setBytes 0x300 [0x80, 0x80, 0x80, 0x80, 0x80]).setReg 1 0x1E)
    (List.range 64).filter (fun x => t.fb.pixel 0 x) = [60, 61, 62, 63] ∧
      (List.range 32).filter (fun y => u.fb.pixel y 0) = [30, 31] ∧ t.reg regF = 0 ∧ t.displayChanged = true := by decide

/-- T66, T67, T68, T72: collision, the old `VF` as column, and the range check. -/
theorem test_drw_collides :
    let lit := ((Blit.mk blankFrame false).flip 0 1).frame
    let t := after ({ (({ ready 0xD011 with I := 0x300 }).setByte 0x300 0xC0) with fb := lit })
    let u := after (((({ ready 0xDF11 with I := 0x300 }).setByte 0x300 0x80).setReg 0xF 0x05).setReg 1 0x02)
    let v := after (({ ready 0xD012 with I := 0xFFF }).setReg 0xF 0x09)
    t.reg regF = 1 ∧ t.fb.pixel 0 0 = true ∧ t.fb.pixel 0 1 = false ∧ u.fb.pixel 2 5 = true ∧ u.reg regF = 0 ∧
      v.fault = ⟨.memoryOutOfRange, 0x200, 0xD012, 0x1000⟩ ∧ v.reg regF = 0x09 ∧ v.displayChanged = false := by decide

/-- T100, T101; T103a. -/
theorem test_skp :
    (after (keyWrite 5 true ((ready 0xE19E).setReg 1 0x05))).pc = 0x204 ∧ (after ((ready 0xE19E).setReg 1 0x05)).pc = 0x202 ∧
      (after ((ready 0xE19E).setReg 1 0x10)).fault = ⟨.keyIndexOutOfRange, 0x200, 0xE19E, 0x10⟩ := by decide

/-- T102, T103; T103b. -/
theorem test_sknp :
    (after ((ready 0xE1A1).setReg 1 0x05)).pc = 0x204 ∧ (after (keyWrite 5 true ((ready 0xE1A1).setReg 1 0x05))).pc = 0x202 ∧
      (after ((ready 0xE1A1).setReg 1 0xFF)).fault = ⟨.keyIndexOutOfRange, 0x200, 0xE1A1, 0xFF⟩ := by decide

/-- T104, T107 (first cycle); T105, T106. -/
theorem test_ld_vx_k_blocked :
    let t := after { ready 0xF30A with DT := 2, ST := 1 }
    t.pc = 0x200 ∧ t.reg 3 = 0 ∧ t.DT = 1 ∧ t.ST = 0 ∧ t.beep = true := by decide

theorem test_ld_vx_k :
    let t := after (keyWrite 7 true (keyWrite 12 true (ready 0xF30A)))
    let u := after (keyWrite 0 true ((ready 0xF30A).setReg 3 0x09))
    t.reg 3 = 0x07 ∧ t.pc = 0x202 ∧ u.reg 3 = 0 := by decide

/-- T108. -/
theorem test_ld_vx_dt :
    (after { ready 0xF407 with DT := 0x1E }).reg 4 = 0x1E ∧ (after { ready 0xF407 with DT := 0x1E }).DT = 0x1D := by decide

/-- T109, T110, T111. -/
theorem test_ld_dt_vx :
    (after ((ready 0xF515).setReg 5 0x3C)).DT = 0x3B ∧ (after ((ready 0xF515).setReg 5 0x01)).DT = 0 ∧
      (after (ready 0xF515)).DT = 0 := by decide

/-- T112 (first cycle), T113. -/
theorem test_ld_st_vx :
    (after ((ready 0xF518).setReg 5 0x02)).ST = 1 ∧ (after ((ready 0xF518).setReg 5 0x02)).beep = true ∧
      (after (ready 0xF518)).ST = 0 ∧ (after (ready 0xF518)).beep = false := by decide

/-! ### Faults of the cycle itself -/

/-- T84, T97: an unknown word, timers not ticked. -/
theorem test_unknown_instruction :
    let t := after { ready 0x8AB8 with DT := 5, ST := 5 }
    t.fault = ⟨.unknownInstruction, 0x200, 0x8AB8, 0⟩ ∧ t.halted = true ∧ t.DT = 5 ∧ t.ST = 5 ∧ t.beep = false ∧
      t.pc = 0x200 := by decide

/-- T93, T94 (second cycle), T19a (second cycle): the fetch leaves the array. -/
theorem test_fetch_out_of_range :
    (after { ready 0 with pc := 0xFFF }).fault = ⟨.memoryOutOfRange, 0xFFF, 0, 0x1000⟩ ∧
      (after { ready 0 with pc := 0x1000 }).fault = ⟨.memoryOutOfRange, 0x1000, 0, 0x1000⟩ ∧
      (after { ready 0 with pc := 0x10FE }).fault = ⟨.memoryOutOfRange, 0x10FE, 0, 0x10FE⟩ := by decide

/-- T94 (first cycle), T19c (second cycle): the last word of the array, and an odd pc. -/
theorem test_fetch_last_word_and_odd_pc :
    (after ({ State.reset with pc := 0xFFE }.withFetchWord 16 0x6A01)).reg 0xA = 0x01 ∧
      (after ({ State.reset with pc := 0x203 }.withFetchWord 16 0x6A55)).reg 0xA = 0x55 ∧
      (after ({ State.reset with pc := 0x203 }.withFetchWord 16 0x6A55)).pc = 0x205 := by decide

/-! ### Witnesses: states and operands that meet the hypotheses of the statements -/

theorem witness_EncodeGivesBackEveryDecodedWord : decodeWord 0x8AB4 = .ok (.addReg 0xA 0xB) := rfl

/-- A word that decodes, a row that selects it, and a word that no row selects. -/
theorem witness_DispatchSelectsTheUniqueRow :
    decodeWord 0xF365 = .ok (.ldRegs 0x3) ∧
      (⟨"LD_REGS", 0xF0FF, 0xF065⟩ ∈ opcodeTable ∧ (⟨"LD_REGS", 0xF0FF, 0xF065⟩ : OpcodeRow).selects 0xF365 = true) ∧
      ∀ row ∈ opcodeTable, row.selects 0x5121 = false := ⟨rfl, by decide, by decide⟩

/-- A word of each of the six groups, at the ends of the ranges. -/
theorem witness_UnknownWordsAreTheSixGroups :
    ([0x0000, 0x0FFF, 0x5001, 0x5FFF, 0x8008, 0x8FFF, 0x9001, 0x9FFF, 0xE000, 0xEFFF, 0xF000, 0xFFFF] : List Nat).all
      (fun w => (decodeTableWord 16 w).isNone) = true := by decide

/-- The shortest and the longest image that is accepted. -/
theorem witness_LoadStoresTheImageAndNothingElse :
    State.reset.memoryCanonical ∧ ([] : List Byte).length ≤ 3584 ∧ (List.replicate 3584 (0x01 : Byte)).length ≤ 3584 :=
  ⟨rfl, by decide, List.length_replicate.le⟩

theorem witness_OversizedLoadIsRejectedWhole : 3584 < (List.replicate 3585 (0xAA : Byte)).length := by
  rw [List.length_replicate]
  decide

theorem witness_KeyWriteSetsOneKey : (0 : Fin 16) ≠ 15 := by decide

theorem witness_NoopCycleChangesNothing :
    State.reset.loaded = false ∧ (after (ready 0x00EE)).halted = true ∧ (after (ready 0x00EE)).loaded = true := by decide

/-- The first address a program has and the last one that can be fetched from. -/
theorem witness_StepRunsTheDecodedInstruction :
    let s := ready 0x8124
    let e := { State.reset with pc := 0xFFE }.withFetchWord 16 0x6A01
    (s.loaded = true ∧ s.halted = false ∧ s.pc.toNat ≤ 0xFFE ∧
      decode [s.byteAt s.pc.toNat, s.byteAt (s.pc.toNat + 1)] = .ok (.addReg 1 2, [])) ∧
    (e.loaded = true ∧ e.halted = false ∧ e.pc.toNat ≤ 0xFFE ∧
      decode [e.byteAt e.pc.toNat, e.byteAt (e.pc.toNat + 1)] = .ok (.ldImm 0xA 0x01, [])) :=
  ⟨⟨rfl, rfl, by decide, rfl⟩, ⟨rfl, rfl, by decide, rfl⟩⟩

/-- The two sides of the bound 0xFFE, and of the bound 0xFFF inside the second clause. -/
theorem witness_FetchIsBigEndianAndRangeChecked :
    ({ State.reset with pc := 0xFFE } : State).pc.toNat ≤ 0xFFE ∧ 0xFFE < ({ State.reset with pc := 0xFFF } : State).pc.toNat ∧
      0xFFF < ({ State.reset with pc := 0x1000 } : State).pc.toNat := by decide

theorem witness_UnknownWordHaltsNamingTheWord :
    (ready 0x5121).loaded = true ∧ (ready 0x5121).halted = false ∧ (ready 0x5121).fetchWord = .ok 0x5121 ∧
      ∀ row ∈ opcodeTable, row.selects 0x5121 = false := ⟨rfl, rfl, rfl, by decide⟩

/-- A cycle that faults, a plain one, and one for each timer instruction. -/
theorem witness_EveryCompletedCycleTicksOnce :
    ((ready 0x00EE).fetchWord = .ok (encode .ret) ∧ step (ready 0x00EE) = .next (after (ready 0x00EE)) ∧
      (after (ready 0x00EE)).halted = true) ∧
    ((ready 0x6A2C).fetchWord = .ok (encode (.ldImm 0xA 0x2C)) ∧ step (ready 0x6A2C) = .next (after (ready 0x6A2C)) ∧
      (after (ready 0x6A2C)).halted = false) ∧
    ((ready 0xF515).fetchWord = .ok (encode (.ldDtVx 5)) ∧ (after (ready 0xF515)).halted = false) ∧
    ((ready 0xF518).fetchWord = .ok (encode (.ldStVx 5)) ∧ (after (ready 0xF518)).halted = false) :=
  ⟨⟨rfl, rfl, rfl⟩, ⟨rfl, rfl, rfl⟩, ⟨rfl, rfl⟩, ⟨rfl, rfl⟩⟩

/-- A `pc` that is kept, and one that cannot be fetched from. -/
theorem witness_PlacedWordIsTheNextInstruction :
    State.reset.memoryCanonical ∧ ({ State.reset with pc := 0x1000 } : State).memoryCanonical ∧
      decodeTableWord 16 0x8124 = some (.addReg 1 2) := ⟨rfl, rfl, rfl⟩

theorem witness_FaultEntryIsPrecise :
    (ready 0x00EE).loaded = true ∧ (ready 0x00EE).halted = false ∧ step (ready 0x00EE) = .next (after (ready 0x00EE)) ∧
      (after (ready 0x00EE)).halted = true := ⟨rfl, rfl, rfl, rfl⟩

/-- Every row of the table of R190 at its boundary, and next to it a case that does not fault. -/
theorem witness_FaultsAreExactlyTheListedOnes :
    listedFault (ready 0x0000) = some (.unknownInstruction, 0x0000, 0) ∧ listedFault (ready 0x6A2C) = none ∧
    listedFault (ready 0x00EE) = some (.stackUnderflow, 0x00EE, 0) ∧ listedFault { ready 0x00EE with sp := 1 } = none ∧
    listedFault { ready 0x2300 with sp := 16 } = some (.stackOverflow, 0x2300, 0) ∧
    listedFault { ready 0x2300 with sp := 15 } = none ∧
    listedFault { ready 0xF333 with I := 0xFFE } = some (.memoryOutOfRange, 0xF333, 0x1000) ∧
    listedFault { ready 0xF333 with I := 0xFFD } = none := by decide

theorem witness_FaultsAreExactlyTheListedOnes_access_and_keys :
    listedFault { ready 0xFF55 with I := 0xFF1 } = some (.memoryOutOfRange, 0xFF55, 0x1000) ∧
    listedFault { ready 0xFF65 with I := 0xFF0 } = none ∧
    listedFault { ready 0xD012 with I := 0xFFF } = some (.memoryOutOfRange, 0xD012, 0x1000) ∧
    listedFault { ready 0xD010 with I := 0x2000 } = none ∧
    listedFault ((ready 0xE19E).setReg 1 0x10) = some (.keyIndexOutOfRange, 0xE19E, 0x10) ∧
    listedFault ((ready 0xE1A1).setReg 1 0x0F) = none ∧
    listedFault { ready 0 with pc := 0xFFF } = some (.memoryOutOfRange, 0, 0x1000) ∧
    listedFault { ready 0 with pc := 0x1000 } = some (.memoryOutOfRange, 0, 0x1000) := by decide

theorem witness_OnlyInitLeavesTheHaltedState :
    (after (ready 0x00EE)).halted = true ∧ Transaction.load [0x60, 0x01] ≠ .init ∧
      transact (.load [0x60, 0x01]) (after (ready 0x00EE)) = .next (load [0x60, 0x01] (after (ready 0x00EE))) :=
  ⟨rfl, by decide, rfl⟩

/-- StepKeepsMemoryControlAndRecordLegal and StepKeepsAddressesBounded: a running state and a halted state that meet all four
invariants, each with its next step. -/
theorem witness_StepKeeps_running :
    (ready 0x2300).memoryCanonical ∧ (ready 0x2300).controlLegal ∧ (ready 0x2300).recordLegal ∧
      (ready 0x2300).addressesBounded ∧ step (ready 0x2300) = .next (after (ready 0x2300)) := by
  refine ⟨rfl, ?_, ?_, ?_, rfl⟩
  · unfold State.controlLegal; decide
  · unfold State.recordLegal; decide
  · unfold State.addressesBounded; decide

theorem witness_StepKeeps_halted :
    (after (ready 0x00EE)).memoryCanonical ∧ (after (ready 0x00EE)).controlLegal ∧ (after (ready 0x00EE)).recordLegal ∧
      (after (ready 0x00EE)).addressesBounded ∧ step (after (ready 0x00EE)) = .next (after (ready 0x00EE)) := by
  refine ⟨rfl, ?_, ?_, ?_, rfl⟩
  · unfold State.controlLegal; decide
  · unfold State.recordLegal; decide
  · unfold State.addressesBounded; decide

/-- A full stack whose entries, and a `pc` which, are the largest the bounds allow. -/
theorem witness_StepKeepsAddressesBounded_at_the_bounds :
    ({ ready 0 with pc := 0x10FE, sp := 16, stack := Vector.replicate 16 0xFFE } : State).addressesBounded := by
  unfold State.addressesBounded
  decide

/-- A halted state that meets the four invariants, and each kind of transaction on it. -/
theorem witness_TransactionsKeepTheInvariants :
    let s := after (ready 0x00EE)
    (s.memoryCanonical ∧ s.controlLegal ∧ s.recordLegal ∧ s.addressesBounded) ∧
      transact .init s = .next (init s, .done) ∧ transact (.load [0x60, 0x01]) s = .next (load [0x60, 0x01] s) ∧
      transact .cycle s = .next (s, .done) ∧ transact (.keyWrite 15 true) s = .next (keyWrite 15 true s, .done) ∧
      transact .fbRead s = .next (s, .pixels (fbRead s)) ∧ transact .statusRead s = .next (s, .status (statusRead s)) :=
  have ⟨hm, hc, hr, ha, _⟩ := witness_StepKeeps_halted
  ⟨⟨hm, hc, hr, ha⟩, rfl, rfl, rfl, rfl, rfl, rfl⟩

/-- `INIT`, `LOAD`, `CYCLE`. -/
theorem witness_ReachableStatesMeetTheInvariants :
    Reachable State.reset ∧ Reachable (after (load [0x00, 0xEE] State.reset).1) := by
  have h0 : Reachable State.reset := .reset _
  have h1 : Reachable (load [0x00, 0xEE] State.reset).1 := .transact (x := .load [0x00, 0xEE]) (r := .ok) h0 rfl
  exact ⟨h0, .transact (x := .cycle) (r := .done) h1 rfl⟩

theorem witness_CanonicalMemoriesThatReadAlikeAreEqual :
    Memory.wf Config.defaultFont [(0x000, 1), (0xFFF, 2)] = true ∧
      Memory.wf Config.defaultFont ((State.reset.setByte 0xFFF 2).setByte 0x000 1).mem = true ∧
      ((State.reset.setByte 0xFFF 2).setByte 0x000 1).mem = [(0x000, 1), (0xFFF, 2)] := by decide

/-- A completing instruction of no named list, and one that faults. -/
theorem witness_OnlyTheNamedInstructionsWriteEachState :
    exec (.ldImm 1 2) State.reset = .next (State.reset.setReg 1 2).advance ∧
      exec .ret State.reset = .next (takeFault .stackUnderflow 0x00EE 0 State.reset) := ⟨rfl, rfl⟩

/-- A register neither written nor read, one read only, registers written and not read (`VX` of `6XNN`, `VF` of `8XY4`, `FX1E` and
`DXYN`, the end of the run of `FX65`), and the registers one past a run. -/
theorem witness_RegistersAreAccessedAsTabulated :
    (¬ writesReg (.addReg 1 2) 3 ∧ ¬ readsReg (.addReg 1 2) 3) ∧ (¬ writesReg (.addReg 1 2) 2 ∧ readsReg (.addReg 1 2) 2) ∧
      (writesReg (.ldImm 1 2) 1 ∧ ¬ readsReg (.ldImm 1 2) 1) ∧
      (writesReg (.addReg 1 2) 15 ∧ ¬ readsReg (.addReg 1 2) 15) ∧ (writesReg (.addI 1) 15 ∧ ¬ readsReg (.addI 1) 15) ∧
      (writesReg (.drw 0 1 5) 15 ∧ ¬ readsReg (.drw 0 1 5) 15) ∧ (writesReg (.ldRegs 15) 15 ∧ ¬ readsReg (.ldRegs 15) 15) ∧
      (¬ writesReg (.ldRegs 14) 15 ∧ ¬ readsReg (.stRegs 14) 15) := by
  simp [writesReg, readsReg]
  decide

theorem witness_PcAfterEachInstruction :
    State.reset.halted = false ∧ exec (.jp 0x234) State.reset = .next (State.reset.setPc 0x234) ∧
      exec .ret State.reset = .next (takeFault .stackUnderflow 0x00EE 0 State.reset) := ⟨rfl, rfl, rfl⟩

theorem witness_DisplayChangedTellsWhetherTheCycleDrew :
    step (ready 0x00E0) = .next (after (ready 0x00E0)) ∧ (ready 0x00E0).loaded = true ∧ (ready 0x00E0).halted = false ∧
      step State.reset = .next State.reset ∧ State.reset.loaded = false := ⟨rfl, rfl, rfl, rfl, rfl⟩

theorem witness_KeypadSoundTimerAndPixelsAreUnobserved :
    (Instr.ldImm 1 2).mnemonic ∉ ["SKP", "SKNP", "LD_VX_K"] ∧ (Instr.ldImm 1 2).mnemonic ≠ "LD_ST_VX" ∧
      (Instr.ldImm 1 2).mnemonic ∉ ["CLS", "DRW"] := by decide

/-- The last two bytes of the array, and a state that goes on from there. -/
theorem witness_StoresAreSeenByTheNextFetch :
    let s := { State.reset with I := 0xFFE }
    let t := (s.setBytes 0xFFE (s.regRun 1)).advance
    s.memoryCanonical ∧ (1 : Fin 16).val = (0 : Fin 16).val + 1 ∧ (1 : Fin 16).val ≤ (1 : Reg).val ∧
      s.I.toNat + (1 : Reg).val ≤ 0xFFF ∧ exec (.stRegs 1) s = .next t ∧
      ({ t with pc := 0xFFE } : State).pc.toNat = s.I.toNat + (0 : Fin 16).val :=
  ⟨rfl, rfl, by decide, by decide, rfl, rfl⟩

theorem witness_CallPushesItsOwnAddress :
    ({ State.reset with sp := 15 } : State).sp.val < 16 ∧ ({ State.reset with sp := 16 } : State).sp.val = 16 := by decide

theorem witness_ReturnGoesPastThePoppedCall :
    (15 : Fin 16).val + 1 = ({ State.reset with sp := 16 } : State).sp.val ∧
      (0 : Fin 16).val + 1 = ({ State.reset with sp := 1 } : State).sp.val ∧ State.reset.sp.val = 0 := by decide

theorem witness_CallThenReturnComesBack :
    let s := { State.reset with sp := 15 }
    let t := after { ready 0x2300 with sp := 15 }
    s.sp.val < 16 ∧ t.sp = 16 ∧ exec (.call 0x300) s = .next { t with loaded := false, mem := [] } := ⟨by decide, rfl, rfl⟩

/-- The four cases of X and Y of AddReportsTheCarry, SubtractComparesStrictlyThenSubtracts,
ReverseSubtractComparesStrictlyThenSubtracts and ShiftsMoveTheLostBitToVF. -/
theorem witness_flag_operand_cases : (1 : Reg) ≠ regF ∧ (15 : Reg) = regF := by decide

theorem witness_DecimalStoreWritesThreeDigits :
    State.reset.memoryCanonical ∧ ({ State.reset with I := 0xFFD } : State).I.toNat ≤ 0xFFD ∧
      0xFFD < ({ State.reset with I := 0xFFE } : State).I.toNat := ⟨rfl, by decide, by decide⟩

/-- RegisterStoreWritesTheRun, RegisterLoadReadsTheRun and StoreThenLoadRestoresTheRegisters: the longest run that fits, the
same run one byte too far, and the shortest at the last byte. -/
theorem witness_register_runs :
    State.reset.memoryCanonical ∧ ({ State.reset with I := 0xFF0 } : State).I.toNat + (15 : Reg).val ≤ 0xFFF ∧
      0xFFF < ({ State.reset with I := 0xFF1 } : State).I.toNat + (15 : Reg).val ∧
      ({ State.reset with I := 0xFFF } : State).I.toNat + (0 : Reg).val ≤ 0xFFF := ⟨rfl, by decide, by decide, by decide⟩

/-- No row at all with `I` outside the array, the last row at 0xFFF, and one past it. -/
theorem witness_DrawXorsTheClippedSprite :
    (0 : Nibble) = 0 ∧ ({ State.reset with I := 0xFF1 } : State).I.toNat + (15 : Nibble).toNat - 1 ≤ 0xFFF ∧
      0 < (1 : Nibble).toNat ∧ 0xFFF < ({ State.reset with I := 0x1000 } : State).I.toNat + (1 : Nibble).toNat - 1 := by decide

/-- The second draw in the very state that the first one left, the sprite byte at 0xFFF. -/
theorem witness_DrawingTwiceRestoresTheFrame :
    let s := { State.reset with I := 0xFFF }.setByte 0xFFF 0xFF
    let t := (drawSprite 0 1 s [0xFF]).advance
    s.I.toNat + (1 : Nibble).toNat - 1 ≤ 0xFFF ∧ exec (.drw 0 1 1) s = .next t ∧ t.I = s.I ∧ keepsAllMemory s t ∧
      (t.reg 0).toNat % 64 = (s.reg 0).toNat % 64 ∧ (t.reg 1).toNat % 32 = (s.reg 1).toNat % 32 :=
  ⟨by decide, rfl, rfl, fun _ => rfl, rfl, rfl⟩

theorem witness_KeypadSkipsTestTheKeyNamedByVX :
    ((State.reset.setReg 1 0x0F).reg 1).toNat = (15 : Fin 16).val ∧ 15 < ((State.reset.setReg 1 0x10).reg 1).toNat := by decide

/-- No key, the greatest key alone, and the least of all sixteen. -/
theorem witness_KeyWaitRepeatsUntilAKeyIsPressed :
    (∀ k, State.reset.keyAt k = false) ∧
    ((keyWrite 15 true State.reset).keyAt 15 = true ∧ ∀ j, j < (15 : Fin 16) → (keyWrite 15 true State.reset).keyAt j = false) ∧
    (({ State.reset with key := Vector.replicate 16 true } : State).keyAt 0 = true ∧
      ∀ j, j < (0 : Fin 16) → ({ State.reset with key := Vector.replicate 16 true } : State).keyAt j = false) := by decide

end Sys2Proof.Tests
end

/-! PROOFS. The four invariants of Safety.lean: what keeps each of them, what a cycle and a host transaction do to them, and the corollary
over runs. `legal` bundles the three that a fault rewrites together (memory, control, record); `addressesBounded` is about `pc` and the
stack alone. -/

namespace Sys2Proof.Machine

/-! ### Memory, control and record -/

/-- The three invariants about memory, control and the fault record together. -/
def State.legal (s : State) : Prop := s.memoryCanonical ∧ s.controlLegal ∧ s.recordLegal

/-- `legal` survives everything that keeps memory canonical, `halted` and the record, and does not unload the program. -/
theorem legal_of_kept {s t : State} (hs : s.legal) (hm : s.memoryCanonical → t.memoryCanonical)
    (hl : s.loaded = true → t.loaded = true) (hh : t.halted = s.halted) (hf : t.fault = s.fault) : t.legal := by
  obtain ⟨hmem, hctl, hrec⟩ := hs
  refine ⟨hm hmem, fun h => hl (hctl (hh ▸ h)), ?_⟩
  rw [State.recordLegal, hh, hf]
  exact hrec

/-- A fault is taken by a core that has a program loaded, and its record is not the cleared one. -/
theorem takeFault_legal {s : State} {c : FaultCode} (o n : Word) (hs : s.legal) (hl : s.loaded = true)
    (hc : c ≠ .noFault) : (takeFault c o n s).legal := by
  obtain ⟨hmem, -, -⟩ := hs
  refine ⟨hmem, fun _ => hl, ?_⟩
  simp [State.recordLegal, FaultRecord.clear, hc]

theorem beginCycle_legal {s : State} (hs : s.legal) : (beginCycle s).legal := legal_of_kept hs id id rfl rfl

theorem noopCycle_legal {s : State} (hs : s.legal) : (noopCycle s).legal := legal_of_kept hs id id rfl rfl

/-- The end of a cycle is the tick or nothing. -/
theorem finishCycle_cases (s : State) : finishCycle s = s ∨ finishCycle s = tick s := by
  unfold finishCycle
  split
  · exact .inl rfl
  · exact .inr rfl

theorem finishCycle_legal {s : State} (hs : s.legal) : (finishCycle s).legal := by
  obtain h | h := finishCycle_cases s <;> rw [h]
  · exact hs
  · exact legal_of_kept hs id id rfl rfl

theorem exec_legal {i : Instr} {s t : State} (hs : s.legal) (hl : s.loaded = true) (h : exec i s = .next t) : t.legal := by
  obtain ⟨c, n, hc, rfl⟩ | ⟨⟨_, hload, hhalt, hfault, _, _⟩, hm⟩ := exec_ends h
  · exact takeFault_legal _ n hs hl hc
  · exact legal_of_kept hs hm (hload.trans ·) hhalt hfault

/-- An executed cycle runs with a program loaded (R81). -/
theorem loaded_of_runnable {s : State} (h : runnable s = true) : s.loaded = true := by
  simp only [runnable, Bool.and_eq_true] at h
  exact h.1

theorem step_legal {s t : State} (hs : s.legal) (h : step s = .next t) : t.legal := by
  have hb := beginCycle_legal hs
  obtain ⟨_, rfl⟩ | ⟨hr, ⟨info, _, rfl⟩ | ⟨w, e, _, _, rfl⟩ | ⟨w, i, u, _, _, hu, rfl⟩⟩ := step_cases h
  · exact noopCycle_legal hs
  · exact takeFault_legal _ _ hb (loaded_of_runnable hr) (by decide)
  · exact takeFault_legal _ _ hb (loaded_of_runnable hr) (by decide)
  · exact finishCycle_legal (exec_legal hb (loaded_of_runnable hr) hu)

theorem resetWith_legal (font : Vector Byte 80) : (State.resetWith font).legal :=
  ⟨rfl, nofun, iff_of_true rfl rfl⟩

theorem init_legal (s : State) : (init s).legal := legal_of_kept (resetWith_legal s.font) id id rfl rfl

/-! ### `LOAD` -/

/-- A `LOAD` is rejected whole, or its image fits the array and is stored at 0x200 (R223, R224). -/
theorem load_cases (bytes : List Byte) (s : State) :
    (load bytes s).1 = s ∨
      (Config.progBase + bytes.length ≤ Config.memSize ∧
        (load bytes s).1 = { s.setBytes Config.progBase bytes with loaded := true }) := by
  unfold load
  split
  · next h =>
    simp only [imageWellFormed, Config.maxRom, decide_eq_true_eq] at h
    exact .inr ⟨by simp only [Config.progBase, Config.memSize]; omega, rfl⟩
  · exact .inl rfl

theorem load_legal (bytes : List Byte) {s : State} (hs : s.legal) : (load bytes s).1.legal := by
  obtain h | ⟨hfit, h⟩ := load_cases bytes s <;> rw [h]
  · exact hs
  · refine legal_of_kept hs (fun hc => setBytes_memoryCanonical s _ bytes hfit hc) (fun _ => rfl) ?_ ?_ <;>
      rw [setBytes_eq]

/-! ### Addresses -/

theorem addressesBounded_of_pc_le {s t : State} (hs : s.addressesBounded) (hk : keepsStack s t)
    (hp : t.pc.toNat ≤ 0x10FE) : t.addressesBounded := by
  obtain ⟨hsp, hst⟩ := hk
  refine ⟨hp, ?_⟩
  rw [hsp, hst]
  exact hs.2

theorem addressesBounded_of_pc_eq {s t : State} (hs : s.addressesBounded) (hk : keepsStack s t) (hp : t.pc = s.pc) :
    t.addressesBounded :=
  addressesBounded_of_pc_le hs hk (hp ▸ hs.1)

section
variable {s t : State} (hs : s.addressesBounded) (hf : s.pc.toNat ≤ 0xFFE)
include hs hf

/-- A `pc` that was fetched from stays far below the bound when it advances. -/
theorem addressesBounded_of_advance (hk : keepsStack s t) (hp : t.pc = s.pc + 2) : t.addressesBounded :=
  addressesBounded_of_pc_le hs hk (by rw [hp]; bv_omega)

theorem skipIf_addressesBounded (c : Bool) : (s.skipIf c).addressesBounded := by
  refine addressesBounded_of_pc_le hs ⟨rfl, rfl⟩ ?_
  rw [skipIf_pc]
  split <;> bv_omega

theorem skipOnKey_addressesBounded {o : Word} {x : Reg} {b : Bool} (h : skipOnKey o x b s = .next t) :
    t.addressesBounded := by
  unfold skipOnKey at h
  split at h <;> obtain rfl := next_inj h rfl
  · exact addressesBounded_of_pc_eq hs ⟨rfl, rfl⟩ rfl
  · exact skipIf_addressesBounded hs hf _

theorem writeRun_addressesBounded {o : Word} {a : Nat} {bs : List Byte}
    (h : finishAccess o s (s.writeRun a bs) = .next t) : t.addressesBounded := by
  obtain ⟨info, rfl⟩ | ⟨_, rfl⟩ := finishAccess_writeRun_cases h
  · exact addressesBounded_of_pc_eq hs ⟨rfl, rfl⟩ rfl
  · rw [setBytes_eq]
    exact addressesBounded_of_advance hs hf ⟨rfl, rfl⟩ rfl

theorem readRun_addressesBounded {o : Word} {a n : Nat} {f : List Byte → State} (hk : ∀ bs, keepsStack s (f bs))
    (hp : ∀ bs, (f bs).pc = s.pc) (h : finishAccess o s ((s.readRun a n).map f) = .next t) : t.addressesBounded := by
  obtain ⟨info, rfl⟩ | ⟨_, rfl⟩ := finishAccess_readRun_cases h
  · exact addressesBounded_of_pc_eq hs ⟨rfl, rfl⟩ rfl
  · exact addressesBounded_of_advance hs hf (hk _) (by rw [advance_pc, hp])

/-- The new entry is the `pc` of the `2NNN` itself, which was fetched from (R102). -/
theorem execCall_addressesBounded {nnn : Addr} (h : execCall nnn s = .next t) : t.addressesBounded := by
  unfold execCall at h
  split at h
  · obtain rfl := next_inj h rfl
    exact addressesBounded_of_pc_eq hs ⟨rfl, rfl⟩ rfl
  · next u hu =>
    obtain ⟨h16, rfl⟩ := push_cases hu
    obtain rfl := next_inj h rfl
    refine ⟨by rw [setPc_pc, zextAddr_toNat]; omega, fun k hk => ?_⟩
    simp only [setPc_sp, setPc_stack] at hk ⊢
    rw [Vector.getElem_set]
    split
    · exact hf
    · exact hs.2 k (by omega)

end

/-- The popped entry is live, so `pc` is at most 0xFFE + 2 (R104). -/
theorem execRet_addressesBounded {s t : State} (hs : s.addressesBounded) (h : execRet s = .next t) :
    t.addressesBounded := by
  unfold execRet at h
  split at h
  · obtain rfl := next_inj h rfl
    exact addressesBounded_of_pc_eq hs ⟨rfl, rfl⟩ rfl
  · next r u hu =>
    obtain ⟨h0, hr, rfl⟩ := pop_cases hu
    obtain rfl := next_inj h rfl
    have hlive : r.toNat ≤ 0xFFE := hr ▸ hs.2 ⟨s.sp.val - 1, by omega⟩ (by simp only; omega)
    refine ⟨by rw [setPc_pc]; bv_omega, fun k hk => hs.2 k ?_⟩
    simp only [setPc_sp] at hk
    omega

theorem drawSprite_pc (x y : Reg) (s : State) (bs : List Byte) : (drawSprite x y s bs).pc = s.pc := by
  obtain ⟨p, _, h⟩ := drawSprite_eq x y s bs
  rw [h]
  rfl

theorem drawSprite_keepsStack (x y : Reg) (s : State) (bs : List Byte) : keepsStack s (drawSprite x y s bs) := by
  obtain ⟨p, _, h⟩ := drawSprite_eq x y s bs
  rw [h]
  exact ⟨rfl, rfl⟩

/-- Every instruction, executed where it could be fetched, keeps the bounds; `BFFF` with V0 = 0xFF reaches 0x10FE (R103). -/
theorem exec_addressesBounded {i : Instr} {s t : State} (hs : s.addressesBounded) (hf : s.pc.toNat ≤ 0xFFE)
    (h : exec i s = .next t) : t.addressesBounded := by
  cases i with
  | ret => exact execRet_addressesBounded hs h
  | call nnn => exact execCall_addressesBounded hs hf h
  | jp nnn =>
    obtain rfl := next_inj h rfl
    exact addressesBounded_of_pc_le hs ⟨rfl, rfl⟩ (by rw [setPc_pc, zextAddr_toNat]; omega)
  | jpV0 nnn =>
    obtain rfl := next_inj h rfl
    refine addressesBounded_of_pc_le hs ⟨rfl, rfl⟩ ?_
    rw [setPc_pc, BitVec.toNat_add, zextAddr_toNat, zextByte_toNat]
    omega
  | seImm | sneImm | seReg | sneReg =>
    obtain rfl := next_inj h rfl
    exact skipIf_addressesBounded hs hf _
  | skp x => exact skipOnKey_addressesBounded hs hf h
  | sknp x => exact skipOnKey_addressesBounded hs hf h
  | ldVxK x =>
    simp only [exec, execLdVxK] at h
    split at h <;> obtain rfl := next_inj h rfl
    · exact addressesBounded_of_pc_eq hs ⟨rfl, rfl⟩ rfl
    · exact addressesBounded_of_advance hs hf ⟨rfl, rfl⟩ rfl
  | ldB x => exact writeRun_addressesBounded hs hf h
  | stRegs x => exact writeRun_addressesBounded hs hf h
  | ldRegs x => exact readRun_addressesBounded hs hf (fun bs => ⟨setRegRun_sp s bs, setRegRun_stack s bs⟩) (setRegRun_pc s) h
  | drw x y n => exact readRun_addressesBounded hs hf (drawSprite_keepsStack x y s) (drawSprite_pc x y s) h
  | _ =>
    obtain rfl := next_inj h rfl
    exact addressesBounded_of_advance hs hf ⟨rfl, rfl⟩ rfl

theorem finishCycle_addressesBounded {s : State} (hs : s.addressesBounded) : (finishCycle s).addressesBounded := by
  obtain h | h := finishCycle_cases s <;> rw [h] <;> exact hs

/-- A word is fetched only where both its bytes lie in the array (R46). -/
theorem pc_le_of_fetchWord {s : State} {w : Word} (h : s.fetchWord = .ok w) : s.pc.toNat ≤ 0xFFE := by
  by_contra hlt
  rw [fetchWord_error (by omega)] at h
  cases h

theorem step_addressesBounded {s t : State} (hs : s.addressesBounded) (h : step s = .next t) : t.addressesBounded := by
  obtain ⟨_, rfl⟩ | ⟨_, ⟨info, _, rfl⟩ | ⟨w, e, _, _, rfl⟩ | ⟨w, i, u, hw, _, hu, rfl⟩⟩ := step_cases h
  · exact hs
  · exact hs
  · exact hs
  · exact finishCycle_addressesBounded (exec_addressesBounded (s := beginCycle s) hs (pc_le_of_fetchWord hw) hu)

theorem resetWith_addressesBounded (font : Vector Byte 80) : (State.resetWith font).addressesBounded :=
  ⟨by simp [State.resetWith], fun k hk => by simp [State.resetWith] at hk⟩

theorem init_addressesBounded (s : State) : (init s).addressesBounded := resetWith_addressesBounded s.font

theorem load_addressesBounded (bytes : List Byte) {s : State} (hs : s.addressesBounded) :
    (load bytes s).1.addressesBounded := by
  obtain h | ⟨_, h⟩ := load_cases bytes s <;> rw [h]
  · exact hs
  · rw [setBytes_eq]
    exact hs

/-! ### Transactions and runs -/

/-- What a transaction leaves: the state of its operation, and for the reads the state before. -/
theorem transact_cases {x : Transaction} {s t : State} {r : Response} (h : transact x s = .next (t, r)) :
    t = init s ∨ (∃ bytes, t = (load bytes s).1) ∨ step s = .next t ∨ (∃ k b, t = keyWrite k b s) ∨ t = s := by
  cases x with
  | init => cases h; exact .inl rfl
  | load bytes =>
    simp only [transact, Host.Outcome.next.injEq] at h
    exact .inr (.inl ⟨bytes, by rw [h]⟩)
  | cycle =>
    simp only [transact] at h
    split at h
    · next u hu => cases h; exact .inr (.inr (.inl hu))
    · cases h
    · cases h
  | keyWrite k b => cases h; exact .inr (.inr (.inr (.inl ⟨k, b, rfl⟩)))
  | fbRead => cases h; exact .inr (.inr (.inr (.inr rfl)))
  | statusRead => cases h; exact .inr (.inr (.inr (.inr rfl)))

theorem transact_legal {x : Transaction} {s t : State} {r : Response} (hs : s.legal)
    (h : transact x s = .next (t, r)) : t.legal := by
  obtain rfl | ⟨bytes, rfl⟩ | hstep | ⟨k, b, rfl⟩ | rfl := transact_cases h
  · exact init_legal s
  · exact load_legal bytes hs
  · exact step_legal hs hstep
  · exact legal_of_kept hs id id rfl rfl
  · exact hs

theorem transact_addressesBounded {x : Transaction} {s t : State} {r : Response} (hs : s.addressesBounded)
    (h : transact x s = .next (t, r)) : t.addressesBounded := by
  obtain rfl | ⟨bytes, rfl⟩ | hstep | ⟨k, b, rfl⟩ | rfl := transact_cases h
  · exact init_addressesBounded s
  · exact load_addressesBounded bytes hs
  · exact step_addressesBounded hs hstep
  · exact hs
  · exact hs

/-- Induction over runs, once: what holds after reset and is kept by every transaction holds of every reachable state. -/
theorem reachable_of_kept {P : State → Prop} (h0 : ∀ font, P (State.resetWith font))
    (hstep : ∀ {x s t r}, P s → transact x s = .next (t, r) → P t) {s : State} (h : Reachable s) : P s := by
  induction h with
  | reset font => exact h0 font
  | transact _ htr ih => exact hstep ih htr

theorem reachable_legal {s : State} (h : Reachable s) : s.legal :=
  reachable_of_kept resetWith_legal transact_legal h

theorem reachable_addressesBounded {s : State} (h : Reachable s) : s.addressesBounded :=
  reachable_of_kept resetWith_addressesBounded transact_addressesBounded h

/-- Settles O27: both groups of invariants hold after reset and every transaction keeps them. -/
theorem reachableStatesMeetTheInvariants : Obligations.ReachableStatesMeetTheInvariants := by
  intro s h
  obtain ⟨hmem, hctl, hrec⟩ := reachable_legal h
  exact ⟨hmem, hctl, hrec, reachable_addressesBounded h⟩

end Sys2Proof.Machine

/-! PROOFS. The obligations of spec/10_state.md about invariants, reset and the host ports, from the lemmas above. -/

namespace Sys2Proof.Machine

/-- Settles O24, by `step_legal`. -/
theorem stepKeepsMemoryControlAndRecordLegal : Obligations.StepKeepsMemoryControlAndRecordLegal :=
  fun _ _ hmem hctl hrec h => step_legal ⟨hmem, hctl, hrec⟩ h

/-- Settles O25, by `step_addressesBounded`. -/
theorem stepKeepsAddressesBounded : Obligations.StepKeepsAddressesBounded :=
  fun _ _ hs h => step_addressesBounded hs h

/-- Settles O60: the two groups of invariants are kept apart from each other. -/
theorem transactionsKeepTheInvariants : Obligations.TransactionsKeepTheInvariants := by
  intro x s t r hmem hctl hrec haddr h
  obtain ⟨hmem', hctl', hrec'⟩ := transact_legal ⟨hmem, hctl, hrec⟩ h
  exact ⟨hmem', hctl', hrec', transact_addressesBounded haddr h⟩

/-- Settles O26, for every `FONT`. -/
theorem resetMeetsTheInvariants : Obligations.ResetMeetsTheInvariants := by
  intro font
  obtain ⟨hmem, hctl, hrec⟩ := resetWith_legal font
  exact ⟨hmem, hctl, hrec, resetWith_addressesBounded font⟩

/-! ### `INIT` -/

theorem unlistedByte_font (font : Vector Byte 80) (k : Fin 80) : unlistedByte font (0x050 + k.val) = font[k.val] := by
  have hk : 0x050 ≤ 0x050 + k.val ∧ 0x050 + k.val < 0x0A0 := by omega
  simp [unlistedByte, hk]

theorem unlistedByte_outside (font : Vector Byte 80) {a : Nat} (h : a < 0x050 ∨ 0x0A0 ≤ a) : unlistedByte font a = 0 :=
  dif_neg (by omega)

/-- Memory after reset lists nothing, so every byte reads as its unlisted value. -/
theorem resetWith_byteAt (font : Vector Byte 80) (a : Nat) : (State.resetWith font).byteAt a = unlistedByte font a := rfl

theorem resetWith_pixel (font : Vector Byte 80) (y x : Nat) : (State.resetWith font).fb.pixel y x = false := by
  simp [Frame.pixel, State.resetWith]

theorem resetWith_resetValues (font : Vector Byte 80) : resetValues font (State.resetWith font) := by
  refine ⟨fun r => ?_, rfl, rfl, rfl, fun k => ?_, rfl, rfl, resetWith_pixel font, rfl, fun k => ?_, rfl, rfl, rfl, rfl,
    fun k => ?_, fun a ha => ?_⟩
  · simp [State.reg, State.resetWith]
  · simp [State.resetWith]
  · simp [State.keyAt, State.resetWith]
  · rw [resetWith_byteAt, unlistedByte_font]
  · rw [resetWith_byteAt, unlistedByte_outside font ha]

/-- `INIT` differs from power-on in the model's counter of draws only (log entry 7), which R37 does not speak of. -/
theorem init_resetValues (s : State) : resetValues s.font (init s) := resetWith_resetValues s.font

/-- Settles O6. -/
theorem initLeavesTheResetValues : Obligations.InitLeavesTheResetValues :=
  ⟨init_resetValues, resetWith_resetValues⟩

/-- Settles O7. The cycle after `INIT` is a no-op whose `beep` was 0 already. -/
theorem initIsIdempotentAndUnloads : Obligations.InitIsIdempotentAndUnloads :=
  fun s => ⟨rfl, rfl, init_resetValues s, rfl⟩

/-! ### The host's ports -/

/-- Settles O10. -/
theorem keyWriteSetsOneKey : Obligations.KeyWriteSetsOneKey := by
  intro s k b
  refine ⟨keyWrite k b s, rfl, ?_, fun j hj => ?_, rfl⟩
  · simp [keyWrite, State.keyAt]
  · have hval : k.val ≠ j.val := fun e => hj (Fin.ext e.symm)
    simp [keyWrite, State.keyAt, Vector.getElem_set_ne _ _ hval]

/-- The list of the pixels is the flattened frame. -/
theorem fbRead_eq_flatten (s : State) : fbRead s = s.fb.flatten.toList := by
  simp only [fbRead, Vector.flatten, Vector.toList, Array.toList_flatten, Array.toList_map, List.map_map]
  rfl

theorem fbRead_getElem? (s : State) {y x : Nat} (hy : y < 32) (hx : x < 64) :
    (fbRead s)[64 * y + x]? = some (s.fb.pixel y x) := by
  have hlt : 64 * y + x < 32 * 64 := by omega
  have hrow : (64 * y + x) / 64 = y := by omega
  have hcol : (64 * y + x) % 64 = x := by omega
  rw [fbRead_eq_flatten, Frame.pixel_eq _ hy hx, List.getElem?_eq_getElem (by simpa using hlt), Vector.getElem_toList,
    Vector.getElem_flatten hlt]
  simp only [hrow, hcol]

/-- Settles O11. -/
theorem readsReturnTheStateAndChangeNothing : Obligations.ReadsReturnTheStateAndChangeNothing := by
  intro s
  refine ⟨⟨fbRead s, rfl, ?_, fun y x hy hx => fbRead_getElem? s hy hx⟩,
    statusRead s, rfl, rfl, rfl, rfl, rfl, rfl, rfl, rfl, rfl⟩
  rw [fbRead_eq_flatten, Vector.length_toList]

/-! ### `CXNN` -/

/-- Settles O47. -/
theorem randomByteIsAFreshDrawUnderTheMask : Obligations.RandomByteIsAFreshDrawUnderTheMask := by
  intro x nn s
  have hx : (s.sampled.setReg x (s.randByte &&& nn)).advance.reg x = Config.rand s.draws &&& nn :=
    setReg_reg_same s.sampled x _
  refine ⟨encodeXI_masked 0xC x nn, _, rfl, hx, ?_, rfl, rfl, ?_, rfl, ⟨rfl, rfl⟩, ⟨rfl, rfl⟩, ⟨rfl, rfl⟩, fun _ => rfl,
    ⟨rfl, rfl, rfl, rfl, rfl, rfl⟩⟩
  · rw [hx]
    ext k hk
    simp
  · intro r hr
    exact setReg_reg_of_ne s.sampled _ (Ne.symm hr)

end Sys2Proof.Machine

/-! PROOFS. What each instruction may write, one rule per operation of the state and then one composition per instruction; every
instruction answers a next state; how each leaves `pc` and `display_changed`. -/

namespace Sys2Proof.Machine

/-! ### Which instructions write which state -/

/-- `t` differs from `s` at most in the state that the instruction `i` is named for as a writer, and in `pc`, `halted`, the fault record
and `beep`, which a fault or the flow of control writes. -/
structure Confined (i : Instr) (s t : State) : Prop where
  regs    : keepsRegs (writesReg i) s t
  index   : i.mnemonic ∉ ["LD_I", "ADD_I", "LD_F"] → t.I = s.I
  stack   : i.mnemonic ∉ ["CALL", "RET"] → keepsStack s t
  delay   : i.mnemonic ≠ "LD_DT_VX" → t.DT = s.DT
  sound   : i.mnemonic ≠ "LD_ST_VX" → t.ST = s.ST
  display : i.mnemonic ∉ ["CLS", "DRW"] → keepsDisplay s t
  memory  : i.mnemonic ∉ ["LD_B", "ST_REGS"] → keepsAllMemory s t
  draws   : i.mnemonic ≠ "RND" → keepsDraws s t
  key     : t.key = s.key
  loaded  : t.loaded = s.loaded
  font    : t.font = s.font

theorem keepsRegs_setReg {W : Reg → Prop} {s t : State} (h : keepsRegs W s t) {x : Reg} (hx : W x) (v : Byte) :
    keepsRegs W s (t.setReg x v) := by
  intro r hr
  have hne : x ≠ r := fun e => hr (e ▸ hx)
  rw [setReg_reg_of_ne t v hne, h r hr]

theorem keepsRegs_setRegRun {W : Reg → Prop} {s t : State} (h : keepsRegs W s t) {bs : List Byte}
    (hW : ∀ r : Reg, r.val < bs.length → W r) : keepsRegs W s (t.setRegRun bs) := by
  intro r hr
  have hout : bs.length ≤ r.val := by
    by_contra hlt
    exact hr (hW r (by omega))
  rw [setRegRun_reg, List.getElem?_eq_none hout, Option.getD_none, h r hr]

namespace Confined

theorem refl (i : Instr) (s : State) : Confined i s s :=
  ⟨fun _ _ => rfl, fun _ => rfl, fun _ => ⟨rfl, rfl⟩, fun _ => rfl, fun _ => rfl, fun _ => ⟨rfl, rfl⟩, fun _ _ => rfl,
    fun _ => rfl, rfl, rfl, rfl⟩

variable {i : Instr} {s t : State} (h : Confined i s t)
include h

/-! What every instruction may write. -/

theorem setPc (v : Word) : Confined i s (t.setPc v) := { h with }

theorem advance : Confined i s t.advance := { h with }

theorem skipIf (c : Bool) : Confined i s (t.skipIf c) := { h with }

theorem takeFault (c : FaultCode) (o n : Word) : Confined i s (takeFault c o n t) := { h with }

/-! What only the named instructions may write. -/

theorem setV {u : State} (hu : u = { t with V := u.V }) (hr : keepsRegs (writesReg i) s u) : Confined i s u := by
  rw [hu] at hr ⊢
  exact { h with regs := hr }

theorem setReg {x : Reg} (hx : writesReg i x) (v : Byte) : Confined i s (t.setReg x v) :=
  h.setV rfl (keepsRegs_setReg h.regs hx v)

theorem setFlag (hF : writesReg i regF) (b : Bool) : Confined i s (t.setFlag b) := h.setReg hF (flagByte b)

theorem setRegRun {bs : List Byte} (hW : ∀ r : Reg, r.val < bs.length → writesReg i r) : Confined i s (t.setRegRun bs) :=
  h.setV rfl (keepsRegs_setRegRun h.regs hW)

theorem setI (hi : i.mnemonic ∈ ["LD_I", "ADD_I", "LD_F"]) (v : Word) : Confined i s (t.setI v) :=
  { h with index := fun hn => absurd hi hn }

theorem setStack (hi : i.mnemonic ∈ ["CALL", "RET"]) (stack : Vector Word 16) (sp : Fin 17) :
    Confined i s { t with stack := stack, sp := sp } :=
  { h with stack := fun hn => absurd hi hn }

theorem setDT (hi : i.mnemonic = "LD_DT_VX") (v : Byte) : Confined i s (t.setDT v) :=
  { h with delay := fun hn => absurd hi hn }

theorem setST (hi : i.mnemonic = "LD_ST_VX") (v : Byte) : Confined i s (t.setST v) :=
  { h with sound := fun hn => absurd hi hn }

theorem setFrame (hi : i.mnemonic ∈ ["CLS", "DRW"]) (f : Frame) : Confined i s (t.setFrame f) :=
  { h with display := fun hn => absurd hi hn }

theorem setBytes (hi : i.mnemonic ∈ ["LD_B", "ST_REGS"]) (a : Nat) (bs : List Byte) : Confined i s (t.setBytes a bs) := by
  rw [setBytes_eq]
  exact { h with memory := fun hn => absurd hi hn }

theorem sampled (hi : i.mnemonic = "RND") : Confined i s t.sampled := { h with draws := fun hn => absurd hi hn }

end Confined

theorem confined_subtractInto {i : Instr} {s : State} {x : Reg} (hx : writesReg i x) (hF : writesReg i regF)
    (minuend subtrahend : Reg) : Confined i s (subtractInto x minuend subtrahend s) :=
  ((Confined.refl i s).setFlag hF _).setReg hx _

theorem confined_skipOnKey {i : Instr} {o : Word} {x : Reg} {b : Bool} {s t : State}
    (h : skipOnKey o x b s = .next t) : Confined i s t := by
  unfold skipOnKey at h
  split at h <;> obtain rfl := next_inj h rfl
  · exact (Confined.refl i s).takeFault _ _ _
  · exact (Confined.refl i s).skipIf _

theorem confined_writeRun {i : Instr} {o : Word} {s t : State} {a : Nat} {bs : List Byte}
    (hi : i.mnemonic ∈ ["LD_B", "ST_REGS"]) (h : finishAccess o s (s.writeRun a bs) = .next t) : Confined i s t := by
  obtain ⟨info, rfl⟩ | ⟨_, rfl⟩ := finishAccess_writeRun_cases h
  · exact (Confined.refl i s).takeFault _ _ _
  · exact ((Confined.refl i s).setBytes hi _ _).advance

theorem confined_readRun {i : Instr} {o : Word} {s t : State} {a n : Nat} {f : List Byte → State}
    (hf : ∀ bs, bs.length = n → Confined i s (f bs)) (h : finishAccess o s ((s.readRun a n).map f) = .next t) :
    Confined i s t := by
  obtain ⟨info, rfl⟩ | ⟨_, rfl⟩ := finishAccess_readRun_cases h
  · exact (Confined.refl i s).takeFault _ _ _
  · exact (hf _ (by simp)).advance

/-- Every instruction writes only the state it is named for. -/
theorem exec_confined {i : Instr} {s t : State} (h : exec i s = .next t) : Confined i s t := by
  have start := Confined.refl i s
  cases i with
  | cls =>
    obtain rfl := next_inj h rfl
    exact (start.setFrame (by simp [Instr.mnemonic]) _).advance
  | ret =>
    simp only [exec, execRet] at h
    split at h
    · obtain rfl := next_inj h rfl
      exact start.takeFault _ _ _
    · next r u hu =>
      obtain ⟨_, _, rfl⟩ := pop_cases hu
      obtain rfl := next_inj h rfl
      exact (start.setStack (by simp [Instr.mnemonic]) _ _).setPc _
  | call nnn =>
    simp only [exec, execCall] at h
    split at h
    · obtain rfl := next_inj h rfl
      exact start.takeFault _ _ _
    · next u hu =>
      obtain ⟨_, rfl⟩ := push_cases hu
      obtain rfl := next_inj h rfl
      exact (start.setStack (by simp [Instr.mnemonic]) _ _).setPc _
  | jp | jpV0 =>
    obtain rfl := next_inj h rfl
    exact start.setPc _
  | seImm | sneImm | seReg | sneReg =>
    obtain rfl := next_inj h rfl
    exact start.skipIf _
  | ldImm | addImm | ldReg | or | and | xor | ldVxDt =>
    obtain rfl := next_inj h rfl
    exact (start.setReg rfl _).advance
  | addReg x y =>
    obtain rfl := next_inj h rfl
    exact ((start.setReg (Or.inl rfl) _).setFlag (Or.inr rfl) _).advance
  | sub | subn =>
    obtain rfl := next_inj h rfl
    exact (confined_subtractInto (by exact Or.inl rfl) (by exact Or.inr rfl) _ _).advance
  | shr | shl =>
    obtain rfl := next_inj h rfl
    exact ((start.setFlag (Or.inr rfl) _).setReg (Or.inl rfl) _).advance
  | rnd x nn =>
    obtain rfl := next_inj h rfl
    exact ((start.sampled rfl).setReg rfl _).advance
  | ldI | ldF =>
    obtain rfl := next_inj h rfl
    exact (start.setI (by simp [Instr.mnemonic]) _).advance
  | addI x =>
    obtain rfl := next_inj h rfl
    exact ((start.setI (by simp [Instr.mnemonic]) _).setFlag rfl _).advance
  | ldDtVx x =>
    obtain rfl := next_inj h rfl
    exact (start.setDT rfl _).advance
  | ldStVx x =>
    obtain rfl := next_inj h rfl
    exact (start.setST rfl _).advance
  | ldVxK x =>
    simp only [exec, execLdVxK] at h
    split at h <;> obtain rfl := next_inj h rfl
    · exact start.setPc _
    · exact (start.setReg rfl _).advance
  | skp | sknp => exact confined_skipOnKey h
  | drw x y n =>
    exact confined_readRun (fun bs _ => (start.setFlag rfl _).setFrame (by simp [Instr.mnemonic]) _) h
  | ldB | stRegs => exact confined_writeRun (by simp [Instr.mnemonic]) h
  | ldRegs x =>
    refine confined_readRun (fun bs hbs => start.setRegRun fun r hr => ?_) h
    simp only [writesReg, Fin.le_def]
    omega

/-- Settles O29. -/
theorem onlyTheNamedInstructionsWriteEachState : Obligations.OnlyTheNamedInstructionsWriteEachState := by
  intro i s t h
  have c := exec_confined h
  exact ⟨c.index, c.stack, c.delay, c.sound, c.display, c.memory, c.draws, c.key, c.loaded, c.font⟩

/-! ### How each instruction leaves `pc` -/

/-- A skip whose condition, as a `Bool`, says `p`. -/
theorem skipIf_pc_of_iff {s : State} {c : Bool} {p : Prop} [Decidable p] (h : c = true ↔ p) :
    (s.skipIf c).pc = if p then s.pc + 4 else s.pc + 2 := by
  simp only [skipIf_pc, h]

/-- A keypad skip faults, or tests the key that `VX` names. -/
theorem skipOnKey_pc {o : Word} {x : Reg} {b : Bool} {s t : State} (h : skipOnKey o x b s = .next t) :
    (∃ c n, t = takeFault c o n s) ∨
      t.pc = if ∃ k : Fin 16, k.val = (s.reg x).toNat ∧ s.keyAt k = b then s.pc + 4 else s.pc + 2 := by
  unfold skipOnKey at h
  obtain ⟨_, hk⟩ | ⟨hlt, hk⟩ := keyIndex_cases (s.reg x) <;> rw [hk] at h <;> obtain rfl := next_inj h rfl
  · exact .inl ⟨_, _, rfl⟩
  · refine .inr (skipIf_pc_of_iff ?_)
    rw [beq_iff_eq]
    constructor
    · exact fun hb => ⟨_, rfl, hb⟩
    · rintro ⟨k, hval, hb⟩
      rwa [show k = ⟨_, hlt⟩ from Fin.ext hval] at hb

theorem execLdVxK_pc {x : Reg} {s t : State} (h : execLdVxK x s = .next t) :
    t.pc = if ∀ k, s.keyAt k = false then s.pc else s.pc + 2 := by
  unfold execLdVxK at h
  split at h <;> obtain rfl := next_inj h rfl
  · next hk => rw [if_pos (firstKey_none.mp hk), setPc_pc]
  · next k hk =>
    rw [if_neg (fun hall => by simp [firstKey_none.mpr hall] at hk)]
    rfl

theorem execRet_pc {s t : State} (h : execRet s = .next t) :
    (∃ c n, t = takeFault c (encode .ret) n s) ∨ t.pc = pcAfter .ret s := by
  unfold execRet at h
  split at h
  · exact .inl ⟨_, _, next_inj h rfl⟩
  · next r u hu =>
    obtain ⟨_, hr, -⟩ := pop_cases hu
    obtain rfl := next_inj h rfl
    have hmod : (s.sp.val - 1) % 16 = s.sp.val - 1 := Nat.mod_eq_of_lt (by omega)
    exact .inr (by simp only [setPc_pc, pcAfter, hmod, hr])

theorem writeRun_pc {o : Word} {s t : State} {a : Nat} {bs : List Byte}
    (h : finishAccess o s (s.writeRun a bs) = .next t) : (∃ c n, t = takeFault c o n s) ∨ t.pc = s.pc + 2 := by
  obtain ⟨n, rfl⟩ | ⟨_, rfl⟩ := finishAccess_writeRun_cases h
  · exact .inl ⟨_, n, rfl⟩
  · rw [setBytes_eq]
    exact .inr rfl

theorem readRun_pc {o : Word} {s t : State} {a n : Nat} {f : List Byte → State} (hf : ∀ bs, (f bs).pc = s.pc)
    (h : finishAccess o s ((s.readRun a n).map f) = .next t) : (∃ c n, t = takeFault c o n s) ∨ t.pc = s.pc + 2 := by
  obtain ⟨n, rfl⟩ | ⟨_, rfl⟩ := finishAccess_readRun_cases h
  · exact .inl ⟨_, n, rfl⟩
  · exact .inr (by rw [advance_pc, hf])

/-- An instruction faults, or leaves `pc` at the value of R15's table. -/
theorem exec_pc {i : Instr} {s t : State} (h : exec i s = .next t) :
    (∃ c n, t = takeFault c (encode i) n s) ∨ t.pc = pcAfter i s := by
  cases i with
  | ret => exact execRet_pc h
  | call nnn =>
    simp only [exec, execCall] at h
    split at h <;> obtain rfl := next_inj h rfl
    · exact .inl ⟨_, _, rfl⟩
    · exact .inr rfl
  | seImm | sneImm | seReg | sneReg =>
    obtain rfl := next_inj h rfl
    exact .inr (skipIf_pc_of_iff (by simp))
  | skp | sknp => exact skipOnKey_pc h
  | ldVxK x => exact .inr (execLdVxK_pc h)
  | drw x y n => exact readRun_pc (drawSprite_pc x y s) h
  | ldRegs x => exact readRun_pc (setRegRun_pc s) h
  | ldB | stRegs => exact writeRun_pc h
  | _ =>
    obtain rfl := next_inj h rfl
    exact .inr rfl

/-- An instruction of a running core ends halted exactly by a fault, and then everything but `halted`, the record and `beep` is as it was. -/
theorem exec_halted_iff {i : Instr} {s t : State} (hs : s.halted = false) (h : exec i s = .next t) :
    t.halted = true ↔ ∃ c n, t = takeFault c (encode i) n s := by
  constructor
  · intro ht
    obtain ⟨c, n, -, rfl⟩ | ⟨⟨_, _, hhalt, _, _, _⟩, _⟩ := exec_ends h
    · exact ⟨c, n, rfl⟩
    · rw [hhalt, hs] at ht
      cases ht
  · rintro ⟨c, n, rfl⟩
    rfl

/-- Settles O31. -/
theorem pcAfterEachInstruction : Obligations.PcAfterEachInstruction := by
  intro i s t hs h
  split
  · next ht =>
    obtain ⟨c, n, rfl⟩ := (exec_halted_iff hs h).mp ht
    rfl
  · next ht => exact (exec_pc h).resolve_left fun hf => ht ((exec_halted_iff hs h).mpr hf)

/-! ### When `display_changed` is set -/

/-- The two instructions that draw (R21). -/
def drawing (i : Instr) : Prop := i = .cls ∨ ∃ x y n, i = .drw x y n

/-- Executed with `display_changed` = 0, an instruction sets it exactly when it draws and does not fault. -/
theorem exec_displayChanged {i : Instr} {s t : State} (hd : s.displayChanged = false) (hs : s.halted = false)
    (h : exec i s = .next t) : t.displayChanged = true ↔ t.halted = false ∧ drawing i := by
  cases i with
  | cls =>
    obtain rfl := next_inj h rfl
    simp [drawing, hs]
  | drw x y n =>
    obtain ⟨info, rfl⟩ | ⟨_, rfl⟩ := finishAccess_readRun_cases h
    · simp [hd]
    · simp [drawSprite, drawing, hs]
  | _ =>
    obtain ⟨-, hkeep⟩ := (exec_confined h).display (by simp [Instr.mnemonic])
    simp [hkeep, hd, drawing]

end Sys2Proof.Machine

namespace Sys2Proof

/-! ### The words of the drawing instructions, and a decoded word as an encoding -/

theorem encode_of_decodeFamily0 {w : Word} {i : Instr} (h : decodeFamily0 w = .ok i) : encode i = w := by
  unfold decodeFamily0 at h
  split at h
  · next hw => cases h; exact hw.symm
  · split at h
    · next hw => cases h; exact hw.symm
    · cases h

/-- A word of format XI from its family. -/
theorem encodeXI_of_fields {w : Word} {op : BitVec 4} {nn : Byte} (hop : opField w = op) (hnn : nnField w = nn) :
    encodeXI op (xField w) nn = w := by
  rw [← hop, ← hnn, encodeXI_fields]

/-- A word of format XYN from its family. -/
theorem encodeXYN_of_fields {w : Word} {op : BitVec 4} {n : Nibble} (hop : opField w = op) (hn : nField w = n) :
    encodeXYN op (xField w) (yField w) n = w := by
  rw [← hop, ← hn, encodeXYN_fields]

theorem encodeA_of_opField {w : Word} {op : BitVec 4} (hop : opField w = op) : encodeA op (nnnField w) = w := by
  rw [← hop, encodeA_fields]

theorem encode_of_decodeCompare {w : Word} {f : Reg → Reg → Instr} {op : BitVec 4} {i : Instr} (hop : opField w = op)
    (hf : ∀ x y, encode (f x y) = encodeXYN op x y 0x0) (h : decodeCompare w f = .ok i) : encode i = w := by
  unfold decodeCompare at h
  split at h
  · next hn =>
    cases h
    rw [hf, encodeXYN_of_fields hop hn]
  · cases h

theorem encode_of_decodeFamily8 {w : Word} {i : Instr} (hop : opField w = 0x8) (h : decodeFamily8 w = .ok i) :
    encode i = w := by
  unfold decodeFamily8 at h
  split at h <;> cases h <;> next hn => exact encodeXYN_of_fields hop (BitVec.eq_of_toNat_eq hn)

theorem encode_of_decodeFamilyE {w : Word} {i : Instr} (hop : opField w = 0xE) (h : decodeFamilyE w = .ok i) :
    encode i = w := by
  unfold decodeFamilyE at h
  split at h <;> cases h <;> next hnn => exact encodeXI_of_fields hop (BitVec.eq_of_toNat_eq hnn)

theorem encode_of_decodeFamilyF {w : Word} {i : Instr} (hop : opField w = 0xF) (h : decodeFamilyF w = .ok i) :
    encode i = w := by
  unfold decodeFamilyF at h
  split at h <;> cases h <;> next hnn => exact encodeXI_of_fields hop (BitVec.eq_of_toNat_eq hnn)

/-- A word that decodes is the encoding of its instruction. -/
theorem encode_of_decodeWord {w : Word} {i : Instr} (h : decodeWord w = .ok i) : encode i = w := by
  unfold decodeWord at h
  split at h
  case h_1 => exact encode_of_decodeFamily0 h
  case h_6 hop => exact encode_of_decodeCompare (op := 0x5) (BitVec.eq_of_toNat_eq hop) (fun _ _ => rfl) h
  case h_9 hop => exact encode_of_decodeFamily8 (BitVec.eq_of_toNat_eq hop) h
  case h_10 hop => exact encode_of_decodeCompare (op := 0x9) (BitVec.eq_of_toNat_eq hop) (fun _ _ => rfl) h
  case h_14 hop =>
    cases h
    exact encodeXYN_of_fields (BitVec.eq_of_toNat_eq hop) rfl
  case h_15 hop => exact encode_of_decodeFamilyE (BitVec.eq_of_toNat_eq hop) h
  case h_16 =>
    have hop : (opField w).toNat = 15 := by
      have hlt := (opField w).isLt
      simp only [imp_false] at *
      omega
    exact encode_of_decodeFamilyF (BitVec.eq_of_toNat_eq hop) h
  case h_2 hop | h_3 hop | h_11 hop | h_12 hop =>
    cases h
    exact encodeA_of_opField (BitVec.eq_of_toNat_eq hop)
  case h_4 hop | h_5 hop | h_7 hop | h_8 hop | h_13 hop =>
    cases h
    exact encodeXI_of_fields (BitVec.eq_of_toNat_eq hop) rfl

theorem decodeWord_encode_cls : decodeWord (encode .cls) = .ok .cls := rfl

theorem decodeWord_encode_drw (x y : Reg) (n : Nibble) : decodeWord (encode (.drw x y n)) = .ok (.drw x y n) := by
  simp [decodeWord, encode]

end Sys2Proof

namespace Sys2Proof.Machine

theorem decodeWord_encode_of_drawing {i : Instr} (h : drawing i) : decodeWord (encode i) = .ok i := by
  obtain rfl | ⟨x, y, n, rfl⟩ := h
  · exact decodeWord_encode_cls
  · exact decodeWord_encode_drw x y n

/-- The fetched word is that of a drawing instruction exactly when the instruction it decodes to draws. -/
theorem fetched_drawing_iff {s : State} {w : Word} {i : Instr} (hw : s.fetchWord = .ok w) (hi : decodeWord w = .ok i) :
    (∃ j, s.fetchWord = .ok (encode j) ∧ drawing j) ↔ drawing i := by
  constructor
  · rintro ⟨j, hj, hd⟩
    obtain rfl : w = encode j := by simpa [hw] using hj
    rw [decodeWord_encode_of_drawing hd] at hi
    cases hi
    exact hd
  · intro hd
    exact ⟨i, by rw [hw, encode_of_decodeWord hi], hd⟩

@[simp] theorem finishCycle_displayChanged (s : State) : (finishCycle s).displayChanged = s.displayChanged := by
  obtain h | h := finishCycle_cases s <;> rw [h]
  rfl

@[simp] theorem finishCycle_halted (s : State) : (finishCycle s).halted = s.halted := by
  obtain h | h := finishCycle_cases s <;> rw [h]
  rfl

theorem runnable_iff (s : State) : runnable s = true ↔ s.loaded = true ∧ s.halted = false := by
  simp [runnable]

/-- Settles O32. -/
theorem displayChangedTellsWhetherTheCycleDrew : Obligations.DisplayChangedTellsWhetherTheCycleDrew := by
  intro s t h
  obtain ⟨hr, rfl⟩ | ⟨hr, hcase⟩ := step_cases h
  · refine ⟨fun hl hh => ?_, fun _ => rfl⟩
    rw [(runnable_iff s).mpr ⟨hl, hh⟩] at hr
    cases hr
  obtain ⟨hl, hh⟩ := (runnable_iff s).mp hr
  refine ⟨fun _ _ => ?_, fun hno => by simp [hl, hh] at hno⟩
  obtain ⟨info, _, rfl⟩ | ⟨w, e, _, _, rfl⟩ | ⟨w, i, u, hw, hi, hu, rfl⟩ := hcase
  · simp
  · simp
  · rw [finishCycle_displayChanged, finishCycle_halted, exec_displayChanged (beginCycle_displayChanged s) hh hu,
      ← fetched_drawing_iff hw hi]
    rfl

end Sys2Proof.Machine

/-! PROOFS. Which state has no influence: a change of registers, sound timer, pixels or keys that the instruction neither reads nor writes
comes through it unchanged, one rule per operation of the state; and a register that the instruction overwrites unread loses the change. -/

namespace Sys2Proof.Machine

/-- Two states that agree outside the registers, and on every register. -/
theorem state_eq_of_regs {s t : State} (h : { s with V := t.V } = t) (hr : ∀ r, s.reg r = t.reg r) : s = t := by
  rw [← h, ← V_ext hr]

/-! ### A change made beforehand -/

/-- A change of the state that some instructions do not look at, register by register. -/
structure Edit where
  V   : Reg → Byte → Byte
  ST  : Byte → Byte
  fb  : Frame → Frame
  key : Vector Bool 16 → Vector Bool 16

namespace Edit

/-- The registers changed one by one. Irreducible, so that comparing two edited states never compares sixteen registers. -/
@[irreducible] def mapRegs (f : Reg → Byte → Byte) (V : Vector Byte 16) : Vector Byte 16 := Vector.ofFn fun r => f r V[r]

theorem mapRegs_getElem (f : Reg → Byte → Byte) (V : Vector Byte 16) (r : Reg) : (mapRegs f V)[r.val] = f r V[r.val] := by
  simp [mapRegs]

/-- The state after the edit. -/
def apply (e : Edit) (s : State) : State :=
  { s with V := mapRegs e.V s.V, ST := e.ST s.ST, fb := e.fb s.fb, key := e.key s.key }

/-- The edit that changes nothing. -/
def nothing : Edit := ⟨fun _ v => v, fun v => v, fun f => f, fun k => k⟩

/-- The edit of one register. -/
def reg (r : Reg) (v : Byte) : Edit := { nothing with V := Function.update nothing.V r fun _ => v }

/-- The instruction `i` neither reads nor writes what the edit `e` changes. -/
structure Unseen (e : Edit) (i : Instr) : Prop where
  regs   : ∀ r, readsReg i r ∨ writesReg i r → ∀ v, e.V r v = v
  keys   : i.mnemonic ∈ ["SKP", "SKNP", "LD_VX_K"] → ∀ k, e.key k = k
  sound  : i.mnemonic = "LD_ST_VX" → ∀ v, e.ST v = v
  pixels : i.mnemonic ∈ ["CLS", "DRW"] → ∀ f, e.fb f = f

variable (e : Edit) (s : State)

/-! What an edit leaves to be read. -/

@[simp] theorem apply_reg (r : Reg) : (e.apply s).reg r = e.V r (s.reg r) := mapRegs_getElem e.V s.V r
@[simp] theorem apply_I : (e.apply s).I = s.I := rfl
@[simp] theorem apply_pc : (e.apply s).pc = s.pc := rfl
@[simp] theorem apply_sp : (e.apply s).sp = s.sp := rfl
@[simp] theorem apply_stack : (e.apply s).stack = s.stack := rfl
@[simp] theorem apply_DT : (e.apply s).DT = s.DT := rfl
@[simp] theorem apply_ST : (e.apply s).ST = e.ST s.ST := rfl
@[simp] theorem apply_fb : (e.apply s).fb = e.fb s.fb := rfl
@[simp] theorem apply_key : (e.apply s).key = e.key s.key := rfl
@[simp] theorem apply_randByte : (e.apply s).randByte = s.randByte := rfl
@[simp] theorem apply_readRun (a n : Nat) : (e.apply s).readRun a n = s.readRun a n := rfl

theorem apply_keyAt {e : Edit} {s : State} (hk : ∀ k, e.key k = k) (k : Fin 16) : (e.apply s).keyAt k = s.keyAt k := by
  simp only [State.keyAt, apply_key, hk]

theorem apply_firstKey {e : Edit} {s : State} (hk : ∀ k, e.key k = k) : (e.apply s).firstKey = s.firstKey := by
  simp only [State.firstKey, apply_keyAt hk]

theorem apply_regRun {e : Edit} {s : State} {x : Reg} (hx : ∀ r ≤ x, ∀ v, e.V r v = v) :
    (e.apply s).regRun x = s.regRun x := by
  apply List.ext_getElem (by simp)
  intro k h1 h2
  rw [regRun_getElem _ _ _ h1, regRun_getElem _ _ _ h2, apply_reg, hx]
  rw [regRun_length] at h2
  exact Fin.le_def.mpr (Nat.le_of_lt_succ h2)

/-! Operations on state that no edit changes. -/

@[simp] theorem apply_setPc (v : Word) : e.apply (s.setPc v) = (e.apply s).setPc v := rfl
@[simp] theorem apply_advance : e.apply s.advance = (e.apply s).advance := rfl
@[simp] theorem apply_skipIf (c : Bool) : e.apply (s.skipIf c) = (e.apply s).skipIf c := rfl
@[simp] theorem apply_setI (v : Word) : e.apply (s.setI v) = (e.apply s).setI v := rfl
@[simp] theorem apply_setDT (v : Byte) : e.apply (s.setDT v) = (e.apply s).setDT v := rfl
@[simp] theorem apply_sampled : e.apply s.sampled = (e.apply s).sampled := rfl
@[simp] theorem apply_takeFault (c : FaultCode) (o n : Word) :
    e.apply (takeFault c o n s) = takeFault c o n (e.apply s) := rfl

@[simp] theorem apply_setBytes (a : Nat) (bs : List Byte) : e.apply (s.setBytes a bs) = (e.apply s).setBytes a bs := by
  induction bs generalizing s a with
  | nil => rfl
  | cons b bs ih => exact ih (s.setByte a b) (a + 1)

/-! Operations on state that an edit may change, where it does not. -/

variable {e}

theorem apply_setReg {x : Reg} (hx : ∀ v, e.V x v = v) (v : Byte) : e.apply (s.setReg x v) = (e.apply s).setReg x v := by
  refine state_eq_of_regs rfl fun r => ?_
  rw [apply_reg, setReg_reg, setReg_reg, apply_reg]
  split
  · next hr => rw [← hr, hx]
  · rfl

theorem apply_setFlag (hF : ∀ v, e.V regF v = v) (b : Bool) : e.apply (s.setFlag b) = (e.apply s).setFlag b :=
  apply_setReg s hF _

theorem apply_setRegRun {bs : List Byte} (hb : ∀ r : Reg, r.val < bs.length → ∀ v, e.V r v = v) :
    e.apply (s.setRegRun bs) = (e.apply s).setRegRun bs := by
  refine state_eq_of_regs (by simp only [apply, State.setRegRun]) fun r => ?_
  rw [apply_reg, setRegRun_reg, setRegRun_reg, apply_reg]
  by_cases hr : r.val < bs.length
  · rw [hb r hr, List.getElem?_eq_getElem hr]
    rfl
  · rw [List.getElem?_eq_none (by omega)]
    rfl

theorem apply_setST (hST : ∀ v, e.ST v = v) (v : Byte) : e.apply (s.setST v) = (e.apply s).setST v := by
  simp only [apply, State.setST, hST]

theorem apply_setFrame (hfb : ∀ f, e.fb f = f) (f : Frame) : e.apply (s.setFrame f) = (e.apply s).setFrame f := by
  simp only [apply, State.setFrame, hfb]

/-! The shapes that several instructions share. -/

theorem apply_subtractInto {x m n : Reg} (hF : ∀ v, e.V regF v = v) (hx : ∀ v, e.V x v = v) (hm : ∀ v, e.V m v = v)
    (hn : ∀ v, e.V n v = v) : subtractInto x m n (e.apply s) = e.apply (subtractInto x m n s) := by
  simp only [subtractInto, apply_setReg _ hx, ← apply_setFlag _ hF, apply_reg, hm, hn]

theorem apply_drawSprite {x y : Reg} (hfb : ∀ f, e.fb f = f) (hF : ∀ v, e.V regF v = v) (hx : ∀ v, e.V x v = v)
    (hy : ∀ v, e.V y v = v) (bs : List Byte) : drawSprite x y (e.apply s) bs = e.apply (drawSprite x y s bs) := by
  simp only [drawSprite, apply_setFrame _ hfb, apply_setFlag _ hF, apply_reg, apply_fb, hfb, hx, hy]

variable {s} {t : State}

theorem finishAccess_writeRun {o : Word} {a : Nat} {bs : List Byte} (h : finishAccess o s (s.writeRun a bs) = .next t) :
    finishAccess o (e.apply s) ((e.apply s).writeRun a bs) = .next (e.apply t) := by
  obtain ⟨hr, _⟩ | ⟨⟨hn, hr⟩, _⟩ := outOfRange_cases a bs.length
  · rw [writeRun_ok _ hr] at h ⊢
    obtain rfl := next_inj h rfl
    simp
  · rw [writeRun_error _ hn hr] at h ⊢
    obtain rfl := next_inj h rfl
    rfl

theorem finishAccess_readRun {o : Word} {a n : Nat} {f f' : List Byte → State}
    (hf : ∀ bs, bs.length = n → f' bs = e.apply (f bs)) (h : finishAccess o s ((s.readRun a n).map f) = .next t) :
    finishAccess o (e.apply s) (((e.apply s).readRun a n).map f') = .next (e.apply t) := by
  rw [apply_readRun]
  obtain ⟨hr, _⟩ | ⟨⟨hn, hr⟩, _⟩ := outOfRange_cases a n
  · rw [readRun_ok _ hr] at h ⊢
    obtain rfl := next_inj h rfl
    simp [Except.map, hf]
  · rw [readRun_error _ hn hr] at h ⊢
    obtain rfl := next_inj h rfl
    rfl

theorem skipOnKey {o : Word} {x : Reg} {b : Bool} (hx : ∀ v, e.V x v = v) (hk : ∀ k, e.key k = k)
    (h : Machine.skipOnKey o x b s = .next t) : Machine.skipOnKey o x b (e.apply s) = .next (e.apply t) := by
  unfold Machine.skipOnKey at h ⊢
  rw [apply_reg, hx]
  split at h <;> obtain rfl := next_inj h rfl
  · rfl
  · simp [apply_keyAt hk]

theorem execCall {nnn : Addr} (h : Machine.execCall nnn s = .next t) :
    Machine.execCall nnn (e.apply s) = .next (e.apply t) := by
  unfold Machine.execCall at h ⊢
  obtain hsp | hsp : s.sp.val = 16 ∨ s.sp.val < 16 := by omega
  · rw [push_none _ hsp] at h
    rw [push_none _ (s := e.apply s) hsp]
    obtain rfl := next_inj h rfl
    rfl
  · rw [push_some _ hsp] at h
    rw [push_some _ (s := e.apply s) hsp]
    obtain rfl := next_inj h rfl
    rfl

theorem execRet (h : Machine.execRet s = .next t) : Machine.execRet (e.apply s) = .next (e.apply t) := by
  unfold Machine.execRet at h ⊢
  obtain hsp | hsp := Nat.eq_zero_or_pos s.sp.val
  · rw [pop_none hsp] at h
    rw [pop_none (s := e.apply s) hsp]
    obtain rfl := next_inj h rfl
    rfl
  · rw [pop_some hsp] at h
    rw [pop_some (s := e.apply s) hsp]
    obtain rfl := next_inj h rfl
    rfl

end Edit

/-- An instruction that always completes as `F`, an operation that the edit passes through. -/
theorem exec_apply_of_total {e : Edit} {i : Instr} {F : State → State} {s t : State} (hi : ∀ u, exec i u = .next (F u))
    (hF : F (e.apply s) = e.apply (F s)) (h : exec i s = .next t) : exec i (e.apply s) = .next (e.apply t) := by
  obtain rfl := next_inj h (hi s)
  rw [hi, hF]

/-- What an instruction neither reads nor writes can be changed beforehand: the change comes through and changes nothing else. -/
theorem exec_apply {e : Edit} {i : Instr} (he : e.Unseen i) {s t : State} (h : exec i s = .next t) :
    exec i (e.apply s) = .next (e.apply t) := by
  obtain ⟨hregs, hkeys, hsound, hpixels⟩ := he
  cases i with
  | call nnn => exact Edit.execCall h
  | ret => exact Edit.execRet h
  | cls =>
    exact exec_apply_of_total (fun _ => rfl) (by simp [Edit.apply_setFrame _ (hpixels (by simp [Instr.mnemonic]))]) h
  | jp | ldI => exact exec_apply_of_total (fun _ => rfl) rfl h
  | jpV0 nnn => exact exec_apply_of_total (fun _ => rfl) (by simp [hregs 0 (Or.inl rfl)]) h
  | seImm x | sneImm x | ldF x | ldDtVx x =>
    exact exec_apply_of_total (fun _ => rfl) (by simp [hregs x (Or.inl rfl)]) h
  | seReg x y | sneReg x y =>
    exact exec_apply_of_total (fun _ => rfl) (by simp [hregs x (Or.inl (Or.inl rfl)), hregs y (Or.inl (Or.inr rfl))]) h
  | ldStVx x =>
    exact exec_apply_of_total (fun _ => rfl) (by simp [Edit.apply_setST _ (hsound rfl), hregs x (Or.inl rfl)]) h
  | ldImm x | addImm x | rnd x | ldVxDt x =>
    have hx := hregs x (Or.inr rfl)
    exact exec_apply_of_total (fun _ => rfl) (by simp [Edit.apply_setReg _ hx, hx]) h
  | ldReg x y =>
    have hx := hregs x (Or.inr rfl)
    exact exec_apply_of_total (fun _ => rfl) (by simp [Edit.apply_setReg _ hx, hregs y (Or.inl rfl)]) h
  | or x y | and x y | xor x y =>
    have hx := hregs x (Or.inr rfl)
    exact exec_apply_of_total (fun _ => rfl) (by simp [Edit.apply_setReg _ hx, hx, hregs y (Or.inl (Or.inr rfl))]) h
  | addReg x y =>
    have hx := hregs x (Or.inr (Or.inl rfl))
    have hF := hregs regF (Or.inr (Or.inr rfl))
    have hy := hregs y (Or.inl (Or.inr rfl))
    exact exec_apply_of_total (fun _ => rfl) (by simp [Edit.apply_setFlag _ hF, Edit.apply_setReg _ hx, hx, hy]) h
  | sub x y =>
    have hx := hregs x (Or.inr (Or.inl rfl))
    have hF := hregs regF (Or.inr (Or.inr rfl))
    have hy := hregs y (Or.inl (Or.inr rfl))
    exact exec_apply_of_total (fun _ => rfl) (by simp [Edit.apply_subtractInto s hF hx hx hy]) h
  | subn x y =>
    have hx := hregs x (Or.inr (Or.inl rfl))
    have hF := hregs regF (Or.inr (Or.inr rfl))
    have hy := hregs y (Or.inl (Or.inr rfl))
    exact exec_apply_of_total (fun _ => rfl) (by simp [Edit.apply_subtractInto s hF hx hy hx]) h
  | shr x y | shl x y =>
    have hx := hregs x (Or.inl rfl)
    have hF := hregs regF (Or.inr (Or.inr rfl))
    exact exec_apply_of_total (fun _ => rfl) (by simp [Edit.apply_setReg _ hx, ← Edit.apply_setFlag _ hF, hx]) h
  | addI x =>
    have hx := hregs x (Or.inl rfl)
    have hF := hregs regF (Or.inr rfl)
    exact exec_apply_of_total (fun _ => rfl) (by simp [Edit.apply_setFlag _ hF, hx]) h
  | ldVxK x =>
    have hk := hkeys (by simp [Instr.mnemonic])
    simp only [exec, execLdVxK, Edit.apply_firstKey hk] at h ⊢
    split at h <;> obtain rfl := next_inj h rfl
    · rfl
    · simp [Edit.apply_setReg _ (hregs x (Or.inr rfl))]
  | skp x =>
    simp only [exec, execSkp] at h ⊢
    exact Edit.skipOnKey (hregs x (Or.inl rfl)) (hkeys (by simp [Instr.mnemonic])) h
  | sknp x =>
    simp only [exec, execSknp] at h ⊢
    exact Edit.skipOnKey (hregs x (Or.inl rfl)) (hkeys (by simp [Instr.mnemonic])) h
  | drw x y n =>
    have hfb := hpixels (by simp [Instr.mnemonic])
    exact Edit.finishAccess_readRun (fun bs _ => Edit.apply_drawSprite s hfb (hregs regF (Or.inr rfl))
      (hregs x (Or.inl (Or.inl rfl))) (hregs y (Or.inl (Or.inr rfl))) bs) h
  | ldB x =>
    simp only [exec, execLdB, Edit.apply_reg, hregs x (Or.inl rfl)] at h ⊢
    exact Edit.finishAccess_writeRun h
  | stRegs x =>
    have hrun : ∀ r ≤ x, ∀ v, e.V r v = v := fun r hr => hregs r (Or.inl hr)
    simp only [exec, execStRegs, Edit.apply_regRun hrun] at h ⊢
    exact Edit.finishAccess_writeRun h
  | ldRegs x =>
    have hrun : ∀ bs : List Byte, bs.length = x.val + 1 → (e.apply s).setRegRun bs = e.apply (s.setRegRun bs) := by
      intro bs hbs
      refine (Edit.apply_setRegRun s fun r hr => hregs r (Or.inr ?_)).symm
      simp only [writesReg, Fin.le_def]
      omega
    exact Edit.finishAccess_readRun hrun h

/-! ### Every instruction answers a next state -/

theorem finishAccess_next (o : Word) (s : State) (r : Except Word State) : ∃ t, finishAccess o s r = .next t := by
  cases r with
  | error n => exact ⟨_, rfl⟩
  | ok t => exact ⟨_, rfl⟩

theorem skipOnKey_next (o : Word) (x : Reg) (b : Bool) (s : State) : ∃ t, skipOnKey o x b s = .next t := by
  unfold skipOnKey
  split <;> exact ⟨_, rfl⟩

theorem exec_next (i : Instr) (s : State) : ∃ t, exec i s = .next t := by
  cases i with
  | call nnn =>
    simp only [exec, execCall]
    split <;> exact ⟨_, rfl⟩
  | ret =>
    simp only [exec, execRet]
    split <;> exact ⟨_, rfl⟩
  | ldVxK x =>
    simp only [exec, execLdVxK]
    split <;> exact ⟨_, rfl⟩
  | skp | sknp => exact skipOnKey_next _ _ _ _
  | drw | ldB | stRegs | ldRegs => exact finishAccess_next _ _ _
  | _ => exact ⟨_, rfl⟩

/-! ### Keys, sound timer and pixels -/

namespace Edit

/-- The keypad replaced. -/
def setKey (k : Vector Bool 16) : Edit := { nothing with key := fun _ => k }

/-- The sound timer replaced. -/
def setST (v : Byte) : Edit := { nothing with ST := fun _ => v }

/-- The pixels replaced. -/
def setFb (f : Frame) : Edit := { nothing with fb := fun _ => f }

theorem setKey_apply (k : Vector Bool 16) (s : State) : (setKey k).apply s = { s with key := k } :=
  state_eq_of_regs rfl fun r => by rw [apply_reg]; rfl

theorem setST_apply (v : Byte) (s : State) : (setST v).apply s = { s with ST := v } :=
  state_eq_of_regs rfl fun r => by rw [apply_reg]; rfl

theorem setFb_apply (f : Frame) (s : State) : (setFb f).apply s = { s with fb := f } :=
  state_eq_of_regs rfl fun r => by rw [apply_reg]; rfl

theorem setKey_unseen {i : Instr} (hi : i.mnemonic ∉ ["SKP", "SKNP", "LD_VX_K"]) (k : Vector Bool 16) :
    (setKey k).Unseen i :=
  ⟨fun _ _ _ => rfl, fun h => absurd h hi, fun _ _ => rfl, fun _ _ => rfl⟩

theorem setST_unseen {i : Instr} (hi : i.mnemonic ≠ "LD_ST_VX") (v : Byte) : (setST v).Unseen i :=
  ⟨fun _ _ _ => rfl, fun _ _ => rfl, fun h => absurd h hi, fun _ _ => rfl⟩

theorem setFb_unseen {i : Instr} (hi : i.mnemonic ∉ ["CLS", "DRW"]) (f : Frame) : (setFb f).Unseen i :=
  ⟨fun _ _ _ => rfl, fun _ _ => rfl, fun _ _ => rfl, fun h => absurd h hi⟩

end Edit

/-- Settles O33: each of the three changes is unseen by the instructions that are not named. -/
theorem keypadSoundTimerAndPixelsAreUnobserved : Obligations.KeypadSoundTimerAndPixelsAreUnobserved := by
  intro i s
  obtain ⟨t, h⟩ := exec_next i s
  refine ⟨t, h, fun hi k => ?_, fun hi v => ?_, fun hi f => ?_⟩
  · rw [← Edit.setKey_apply k s, ← Edit.setKey_apply k t]
    exact exec_apply (Edit.setKey_unseen hi k) h
  · rw [← Edit.setST_apply v s, ← Edit.setST_apply v t]
    exact exec_apply (Edit.setST_unseen hi v) h
  · rw [← Edit.setFb_apply f s, ← Edit.setFb_apply f t]
    exact exec_apply (Edit.setFb_unseen hi f) h

/-! ### Registers -/

namespace Edit

theorem reg_apply (r : Reg) (v : Byte) (s : State) : (reg r v).apply s = s.setReg r v := by
  refine state_eq_of_regs rfl fun q => ?_
  rw [apply_reg, setReg_reg]
  by_cases hq : r = q
  · subst hq
    simp [reg]
  · simp [reg, nothing, hq, Ne.symm hq]

theorem reg_unseen {i : Instr} {r : Reg} (hr : ¬ readsReg i r) (hw : ¬ writesReg i r) (v : Byte) : (reg r v).Unseen i where
  regs q hq w := by
    have hne : q ≠ r := fun e => (e ▸ hq).elim hr hw
    simp [reg, nothing, hne]
  keys _ _ := rfl
  sound _ _ := rfl
  pixels _ _ := rfl

end Edit

/-! What overwriting a register leaves of its old value. -/

theorem setReg_setFlag_regF (s : State) (v : Byte) (b : Bool) : (s.setReg regF v).setFlag b = s.setFlag b :=
  setReg_setReg s regF v (flagByte b)

theorem setReg_setReg_setFlag (s : State) (x : Reg) (v w : Byte) (b : Bool) :
    ((s.setReg regF v).setReg x w).setFlag b = (s.setReg x w).setFlag b := by
  by_cases hx : x = regF
  · rw [hx, setReg_setReg]
  · rw [setReg_comm s v w (Ne.symm hx), setReg_setFlag_regF]

theorem setReg_setRegRun (s : State) {r : Reg} (v : Byte) {bs : List Byte} (hr : r.val < bs.length) :
    (s.setReg r v).setRegRun bs = s.setRegRun bs := by
  refine state_eq_of_regs (by simp only [State.setReg, State.setRegRun]) fun q => ?_
  rw [setRegRun_reg, setRegRun_reg]
  by_cases hq : r = q
  · subst hq
    rw [List.getElem?_eq_getElem hr]
    rfl
  · rw [setReg_reg_of_ne s v hq]

section
variable {m n : Reg} (hm : regF ≠ m) (hn : regF ≠ n)
include hm hn

theorem subtractInto_setReg_regF (x : Reg) (s : State) (v : Byte) :
    subtractInto x m n (s.setReg regF v) = subtractInto x m n s := by
  simp only [subtractInto, setReg_setFlag_regF, setReg_reg_of_ne s v hm, setReg_reg_of_ne s v hn]

theorem drawSprite_setReg_regF (s : State) (v : Byte) (bs : List Byte) :
    drawSprite m n (s.setReg regF v) bs = drawSprite m n s bs := by
  simp only [drawSprite, setReg_setFlag_regF, setReg_reg_of_ne s v hm, setReg_reg_of_ne s v hn, setReg_fb]

end

/-- The old value of register `r` has no influence on how `i` ends, and is either gone from the next state or still there. -/
def noInfluence (i : Instr) (s t : State) (r : Reg) : Prop :=
  (writesReg i r ∧ ∀ v, exec i (s.setReg r v) = .next t) ∨
    (t.reg r = s.reg r ∧ ∀ v, exec i (s.setReg r v) = .next (t.setReg r v))

/-- The instruction overwrites the register whatever it held. -/
theorem noInfluence_of_absorbed {i : Instr} {s t : State} {r : Reg} (h : exec i s = .next t) (hw : writesReg i r)
    (ha : ∀ v, exec i (s.setReg r v) = exec i s) : noInfluence i s t r :=
  .inl ⟨hw, fun v => (ha v).trans h⟩

/-- A run of bytes is read and then overwrites the register, or the read faults and leaves it alone. -/
theorem noInfluence_of_readRun {i : Instr} {o : Word} {s t : State} {r : Reg} {a n : Nat} {f : State → List Byte → State}
    (hi : ∀ v, exec i (s.setReg r v) = finishAccess o (s.setReg r v) ((s.readRun a n).map (f (s.setReg r v))))
    (hw : writesReg i r) (hf : ∀ v bs, bs.length = n → f (s.setReg r v) bs = f s bs)
    (h : finishAccess o s ((s.readRun a n).map (f s)) = .next t) : noInfluence i s t r := by
  obtain ⟨hr, _⟩ | ⟨⟨hn, hr⟩, _⟩ := outOfRange_cases a n
  · rw [readRun_ok s hr] at h hi
    obtain rfl := next_inj h rfl
    refine .inl ⟨hw, fun v => ?_⟩
    rw [hi, Except.map, finishAccess_ok, hf v _ (by simp)]
  · rw [readRun_error s hn hr] at h hi
    obtain rfl := next_inj h rfl
    exact .inr ⟨rfl, fun v => hi v⟩

/-- A register that an instruction may write and does not read has no influence. -/
theorem noInfluence_of_written {i : Instr} {s t : State} {r : Reg} (hw : writesReg i r) (hr : ¬ readsReg i r)
    (h : exec i s = .next t) : noInfluence i s t r := by
  cases i with
  | ldImm x nn =>
    obtain rfl : r = x := hw
    exact noInfluence_of_absorbed h rfl fun v => by simp [exec, execLdImm]
  | ldVxDt x =>
    obtain rfl : r = x := hw
    exact noInfluence_of_absorbed h rfl fun v => by simp [exec, execLdVxDt]
  | rnd x nn =>
    obtain rfl : r = x := hw
    exact noInfluence_of_absorbed h rfl fun v =>
      congrArg (fun u : State => Host.Outcome.next u.advance) (setReg_setReg s.sampled r v _)
  | ldReg x y =>
    obtain rfl : r = x := hw
    exact noInfluence_of_absorbed h rfl fun v => by simp [exec, execLdReg, setReg_reg_of_ne s v hr]
  | addImm => exact absurd hw hr
  | or | and | xor => exact absurd (Or.inl hw) hr
  | addReg x y =>
    obtain rfl | rfl := hw
    · exact absurd (Or.inl rfl) hr
    · obtain ⟨hx, hy⟩ := not_or.mp hr
      exact noInfluence_of_absorbed h (Or.inr rfl) fun v => by
        simp only [exec, execAddReg, setReg_reg_of_ne s v hx, setReg_reg_of_ne s v hy, setReg_setReg_setFlag]
  | sub x y =>
    obtain rfl | rfl := hw
    · exact absurd (Or.inl rfl) hr
    · obtain ⟨hx, hy⟩ := not_or.mp hr
      exact noInfluence_of_absorbed h (Or.inr rfl) fun v => by
        simp only [exec, execSub, subtractInto_setReg_regF hx hy]
  | subn x y =>
    obtain rfl | rfl := hw
    · exact absurd (Or.inl rfl) hr
    · obtain ⟨hx, hy⟩ := not_or.mp hr
      exact noInfluence_of_absorbed h (Or.inr rfl) fun v => by
        simp only [exec, execSubn, subtractInto_setReg_regF hy hx]
  | shr x y =>
    obtain rfl | rfl := hw
    · exact absurd rfl hr
    · exact noInfluence_of_absorbed h (Or.inr rfl) fun v => by
        simp only [exec, execShr, setReg_setFlag_regF, setReg_reg_of_ne s v hr]
  | shl x y =>
    obtain rfl | rfl := hw
    · exact absurd rfl hr
    · exact noInfluence_of_absorbed h (Or.inr rfl) fun v => by
        simp only [exec, execShl, setReg_setFlag_regF, setReg_reg_of_ne s v hr]
  | addI x =>
    obtain rfl : r = regF := hw
    refine noInfluence_of_absorbed h rfl fun v => ?_
    have hI : ∀ w, (s.setReg regF v).setI w = (s.setI w).setReg regF v := fun _ => rfl
    simp only [exec, execAddI, hI, setReg_setFlag_regF, setReg_reg_of_ne s v hr, setReg_I]
  | ldVxK x =>
    obtain rfl : r = x := hw
    have hkey : ∀ v, (s.setReg r v).firstKey = s.firstKey := fun _ => rfl
    simp only [exec, execLdVxK] at h
    split at h <;> obtain rfl := next_inj h rfl
    · next hk => exact .inr ⟨rfl, fun v => by simp only [exec, execLdVxK, hkey, hk]; rfl⟩
    · next k hk => exact .inl ⟨rfl, fun v => by simp only [exec, execLdVxK, hkey, hk, setReg_setReg]⟩
  | drw x y n =>
    obtain rfl : r = regF := hw
    obtain ⟨hx, hy⟩ := not_or.mp hr
    exact noInfluence_of_readRun (f := drawSprite x y) (fun _ => rfl) rfl
      (fun v bs _ => drawSprite_setReg_regF hx hy s v bs) h
  | ldRegs x =>
    refine noInfluence_of_readRun (f := State.setRegRun) (fun _ => rfl) hw (fun v bs hbs => setReg_setRegRun s v ?_) h
    rw [hbs]
    exact Nat.lt_succ_of_le hw
  | _ => exact hw.elim

/-- Settles O30: `Confined` gives the registers that keep their values; a register neither read nor written is an edit that the instruction
does not see, and one written unread is overwritten or left alone. -/
theorem registersAreAccessedAsTabulated : Obligations.RegistersAreAccessedAsTabulated := by
  intro i s r
  obtain ⟨t, h⟩ := exec_next i s
  have hkeep : ¬ writesReg i r → t.reg r = s.reg r := (exec_confined h).regs r
  refine ⟨t, h, hkeep, fun hr => ?_⟩
  by_cases hw : writesReg i r
  · exact noInfluence_of_written hw hr h
  · refine .inr ⟨hkeep hw, fun v => ?_⟩
    rw [← Edit.reg_apply, ← Edit.reg_apply]
    exact exec_apply (Edit.reg_unseen hr hw v) h

end Sys2Proof.Machine

/-! PROOFS. The obligations of spec/20_memory.md: the canonical list of a memory, the fetch of two bytes, and the fetch of what `FX55` has
stored. -/

namespace Sys2Proof.Machine

/-! ### The canonical list of a memory -/

theorem Memory.wfFrom_cons_iff (font : Vector Byte 80) {lo a : Nat} {v : Byte} {m : Memory} :
    Memory.wfFrom font lo ((a, v) :: m) = true ↔
      lo ≤ a ∧ a < Config.memSize ∧ v ≠ unlistedByte font a ∧ Memory.wfFrom font (a + 1) m = true := by
  simp [Memory.wfFrom, and_assoc]

theorem Memory.read_cons_same (font : Vector Byte 80) (a : Nat) (v : Byte) (m : Memory) :
    Memory.read font a ((a, v) :: m) = v := if_pos rfl

theorem Memory.read_cons_other (font : Vector Byte 80) {a c : Nat} (v : Byte) (m : Memory) (h : a ≠ c) :
    Memory.read font c ((a, v) :: m) = Memory.read font c m := if_neg h

/-- Two memories read alike when they read the same byte at every address of the array. -/
def Memory.readsAlike (font : Vector Byte 80) (m n : Memory) : Prop :=
  ∀ a, a < Config.memSize → Memory.read font a m = Memory.read font a n

theorem Memory.readsAlike_symm {font : Vector Byte 80} {m n : Memory} (h : Memory.readsAlike font m n) :
    Memory.readsAlike font n m := fun a ha => (h a ha).symm

/-- An address that a canonical list lists reads as something else than when unlisted, so a canonical list that reads alike does not begin
after it. -/
theorem Memory.start_le_of_readsAlike {font : Vector Byte 80} {lo b a : Nat} {v : Byte} {m n : Memory}
    (hm : Memory.wfFrom font lo ((a, v) :: m) = true) (hn : Memory.wfFrom font b n = true)
    (h : Memory.readsAlike font ((a, v) :: m) n) : b ≤ a := by
  obtain ⟨-, hlt, hv, -⟩ := (Memory.wfFrom_cons_iff font).mp hm
  by_contra hb
  have hread := h a hlt
  rw [Memory.read_cons_same, Memory.read_of_lt font hn (by omega)] at hread
  exact hv hread

/-- No canonical list with an entry reads like the empty list, which is canonical from any address on. -/
theorem Memory.not_readsAlike_nil {font : Vector Byte 80} {lo a : Nat} {v : Byte} {m : Memory}
    (hm : Memory.wfFrom font lo ((a, v) :: m) = true) : ¬ Memory.readsAlike font ((a, v) :: m) [] := fun h =>
  absurd (Memory.start_le_of_readsAlike (b := a + 1) hm rfl h) (by omega)

/-- Behind a common first entry, canonical lists that read alike still do: up to that entry's address both list nothing. -/
theorem Memory.readsAlike_tail {font : Vector Byte 80} {a : Nat} {v : Byte} {m n : Memory}
    (hm : Memory.wfFrom font (a + 1) m = true) (hn : Memory.wfFrom font (a + 1) n = true)
    (h : Memory.readsAlike font ((a, v) :: m) ((a, v) :: n)) : Memory.readsAlike font m n := by
  intro c hc
  by_cases hca : a = c
  · subst hca
    rw [Memory.read_of_lt font hm (by omega), Memory.read_of_lt font hn (by omega)]
  · rw [← Memory.read_cons_other font v m hca, ← Memory.read_cons_other font v n hca]
    exact h c hc

/-- Canonical lists that read alike begin at the same address, hold the same byte there, and go on alike. -/
theorem Memory.eq_of_readsAlike {font : Vector Byte 80} {lo : Nat} {m n : Memory} (hm : Memory.wfFrom font lo m = true)
    (hn : Memory.wfFrom font lo n = true) (h : Memory.readsAlike font m n) : m = n := by
  induction m generalizing lo n with
  | nil =>
    cases n with
    | nil => rfl
    | cons d n => exact absurd (Memory.readsAlike_symm h) (Memory.not_readsAlike_nil hn)
  | cons c m ih =>
    cases n with
    | nil => exact absurd h (Memory.not_readsAlike_nil hm)
    | cons d n =>
      obtain ⟨a, v⟩ := c
      obtain ⟨b, w⟩ := d
      obtain ⟨-, ha, hv, hm'⟩ := (Memory.wfFrom_cons_iff font).mp hm
      obtain ⟨-, hb, hw, hn'⟩ := (Memory.wfFrom_cons_iff font).mp hn
      have hba : b ≤ a :=
        Memory.start_le_of_readsAlike hm ((Memory.wfFrom_cons_iff font).mpr ⟨le_refl b, hb, hw, hn'⟩) h
      have hab : a ≤ b :=
        Memory.start_le_of_readsAlike hn ((Memory.wfFrom_cons_iff font).mpr ⟨le_refl a, ha, hv, hm'⟩)
          (Memory.readsAlike_symm h)
      obtain rfl : a = b := Nat.le_antisymm hab hba
      obtain rfl : v = w := by simpa only [Memory.read_cons_same] using h a ha
      rw [ih hm' hn' (Memory.readsAlike_tail hm' hn' h)]

/-- Settles O28, by induction on the two lists. -/
theorem canonicalMemoriesThatReadAlikeAreEqual : Obligations.CanonicalMemoriesThatReadAlikeAreEqual :=
  fun _ _ _ hm hn h => Memory.eq_of_readsAlike hm hn h

/-! ### The fetch -/

/-- The byte at the lower address is the high byte (R46). -/
theorem wordOfBytes_toNat (hi lo : Byte) : (wordOfBytes hi lo).toNat = 256 * hi.toNat + lo.toNat :=
  (append_toNat hi lo).trans (by omega)

theorem fetchWord_bigEndian {s : State} (h : s.pc.toNat ≤ 0xFFE) :
    ∃ w, s.fetchWord = .ok w ∧
      w.toNat = 256 * (s.byteAt s.pc.toNat).toNat + (s.byteAt (s.pc.toNat + 1)).toNat :=
  ⟨_, fetchWord_ok h, wordOfBytes_toNat _ _⟩

/-- Settles O14: the lowest address out of range is `pc` itself, unless only the second byte is. -/
theorem fetchIsBigEndianAndRangeChecked : Obligations.FetchIsBigEndianAndRangeChecked := by
  refine fun s => ⟨fetchWord_bigEndian, fun h => ?_⟩
  rw [fetchWord_error h]
  congr 1
  split
  · next hpc => rw [Nat.max_eq_left hpc, BitVec.ofNat_toNat, BitVec.setWidth_eq]
  · next hpc =>
    have hlast : s.pc = 0xFFF := BitVec.eq_of_toNat_eq (Nat.le_antisymm (Nat.le_of_not_lt hpc) h)
    rw [hlast]
    rfl

/-! ### A fetch after `FX55` -/

/-- Reading a byte looks at memory and `FONT` only. -/
theorem byteAt_of_mem_font {s t : State} (hm : s.mem = t.mem) (hf : s.font = t.font) (a : Nat) : s.byteAt a = t.byteAt a := by
  rw [State.byteAt, State.byteAt, hm, hf]

/-- `FX55` inside the array stores the run of registers from `I` on (R146). -/
theorem exec_stRegs_inside {x : Reg} {s : State} (h : s.I.toNat + x.val ≤ 0xFFF) :
    exec (.stRegs x) s = .next (s.setBytes s.I.toNat (s.regRun x)).advance := by
  have hrun : s.writeRun s.I.toNat (s.regRun x) = .ok (s.setBytes s.I.toNat (s.regRun x)) :=
    writeRun_ok s (.inr (by simpa using h))
  rw [exec, execStRegs, effectiveAddress_eq, Nat.add_zero, hrun, finishAccess_ok]

/-- Each register of the stored run stands at its own offset from `I`. -/
theorem setBytes_regRun_byteAt {x : Reg} {s : State} (hs : s.memoryCanonical) (h : s.I.toNat + x.val ≤ 0xFFF) {k : Fin 16}
    (hk : k.val ≤ x.val) : (s.setBytes s.I.toNat (s.regRun x)).byteAt (s.I.toNat + k.val) = s.reg k := by
  have hlen := regRun_length s x
  rw [setBytes_byteAt_same s _ k.val _ (by rw [hlen]; simp only [Config.memSize]; omega) hs (by omega), regRun_getElem]

/-- Settles O34: the fetch reads two neighbouring bytes of the run that `FX55` has stored. -/
theorem storesAreSeenByTheNextFetch : Obligations.StoresAreSeenByTheNextFetch := by
  intro x s k k' hs hnext hk' hin
  refine ⟨_, exec_stRegs_inside hin, fun u hmem hfont hpc => ?_⟩
  have hbyte : ∀ j : Fin 16, j.val ≤ x.val → u.byteAt (s.I.toNat + j.val) = s.reg j := fun j hj =>
    (byteAt_of_mem_font hmem hfont _).trans (setBytes_regRun_byteAt hs hin hj)
  obtain ⟨w, hw, hval⟩ := fetchWord_bigEndian (s := u) (by omega)
  refine ⟨w, hw, ?_⟩
  rw [hval, hpc, Nat.add_assoc, ← hnext, hbyte k (by omega), hbyte k' hk']

end Sys2Proof.Machine

/-! PROOFS. The obligations of spec/30_encoding.md: decoder and encoder are inverse to each other, the decoder agrees with the opcode map of
mask and match pairs, and the rejected words are the six groups of R66. -/

namespace Sys2Proof

/-! ### Decoding an encoding (R60, R62, R65) -/

/-- The dispatch finds the constructor whose format the encoder used. -/
theorem decodeWord_encode (i : Instr) : decodeWord (encode i) = .ok i := by
  cases i with
  | cls | ret => rfl
  | jp | call | ldI | jpV0 => simp [decodeWord, encode]
  | seImm | sneImm | ldImm | addImm | rnd => simp [decodeWord, encode]
  | seReg | sneReg => simp [decodeWord, encode, decodeCompare]
  | ldReg | or | and | xor | addReg | sub | shr | subn | shl => simp [decodeWord, encode, decodeFamily8]
  | drw x y n => exact decodeWord_encode_drw x y n
  | skp | sknp => simp [decodeWord, encode, decodeFamilyE]
  | ldVxDt | ldVxK | ldDtVx | ldStVx | addI | ldF | ldB | stRegs | ldRegs => simp [decodeWord, encode, decodeFamilyF]

/-- Settles O2: the two bytes make up the word again, and the word decodes to its instruction. -/
theorem decodeGivesBackEveryEncoding : Obligations.DecodeGivesBackEveryEncoding := by
  intro i rest
  simp [encodeBytes, decode, decodeWord_encode]

/-- Settles O3: each branch of the dispatch fixes the fields that its encoding writes. -/
theorem encodeGivesBackEveryDecodedWord : Obligations.EncodeGivesBackEveryDecodedWord :=
  fun _ _ => encode_of_decodeWord

/-! ### The opcode map and the decoder (R64, R65) -/

/-- Every instruction's word stands in the row of its own mnemonic. -/
theorem Laws.EncodesInRow.every : ∀ i, Laws.EncodesInRow.Statement i
  | .cls => cls
  | .ret => ret
  | .jp nnn => jp nnn
  | .call nnn => call nnn
  | .seImm x nn => seImm x nn
  | .sneImm x nn => sneImm x nn
  | .seReg x y => seReg x y
  | .ldImm x nn => ldImm x nn
  | .addImm x nn => addImm x nn
  | .ldReg x y => ldReg x y
  | .or x y => or x y
  | .and x y => and x y
  | .xor x y => xor x y
  | .addReg x y => addReg x y
  | .sub x y => sub x y
  | .shr x y => shr x y
  | .subn x y => subn x y
  | .shl x y => shl x y
  | .sneReg x y => sneReg x y
  | .ldI nnn => ldI nnn
  | .jpV0 nnn => jpV0 nnn
  | .rnd x nn => rnd x nn
  | .drw x y n => drw x y n
  | .skp x => skp x
  | .sknp x => sknp x
  | .ldVxDt x => ldVxDt x
  | .ldVxK x => ldVxK x
  | .ldDtVx x => ldDtVx x
  | .ldStVx x => ldStVx x
  | .addI x => addI x
  | .ldF x => ldF x
  | .ldB x => ldB x
  | .stRegs x => stRegs x
  | .ldRegs x => ldRegs x

/-- A word that decodes stands in the row of its instruction. -/
theorem selects_of_decodeWord {w : Word} {i : Instr} (h : decodeWord w = .ok i) :
    ∃ row ∈ opcodeTable, row.mnemonic = i.mnemonic ∧ row.selects w = true := by
  have hrow := Laws.EncodesInRow.every i
  rwa [Laws.EncodesInRow.Statement, encode_of_decodeWord h] at hrow

theorem OpcodeRow.selects_iff (r : OpcodeRow) (w : Word) : r.selects w = true ↔ w &&& r.mask = r.value := beq_iff_eq

/-- Two rows of the map whose match values agree on the bits that both masks keep are one row. -/
theorem opcodeTable_disjoint : ∀ r ∈ opcodeTable, ∀ q ∈ opcodeTable,
    r.value &&& q.mask = q.value &&& r.mask → q = r := by decide

/-- No two rows of the map select one word. -/
theorem OpcodeRow.eq_of_selects {w : Word} {r : OpcodeRow} (hr : r ∈ opcodeTable) (hrw : r.selects w = true) :
    ∀ q ∈ opcodeTable, q.selects w = true → q = r := by
  intro q hq hqw
  rw [OpcodeRow.selects_iff] at hrw hqw
  refine opcodeTable_disjoint r hr q hq ?_
  rw [← hrw, ← hqw, BitVec.and_assoc, BitVec.and_assoc, BitVec.and_comm r.mask]

/-- Every word that the row selects is the encoding of an instruction of the row. -/
def OpcodeRow.encodable (r : OpcodeRow) : Prop :=
  ∀ w, r.selects w = true → ∃ i, encode i = w ∧ i.mnemonic = r.mnemonic

/-! The fields that a format's mask leaves. -/

theorem opField_of_mask_F000 {w : Word} {op : BitVec 4} (h : w &&& 0xF000 = encodeA op 0) : opField w = op := by
  rw [mask_F000] at h
  simpa using congrArg opField h

theorem fields_of_mask_F00F {w : Word} {op : BitVec 4} {n : Nibble} (h : w &&& 0xF00F = encodeXYN op 0 0 n) :
    opField w = op ∧ nField w = n := by
  rw [mask_F00F] at h
  exact ⟨by simpa using congrArg opField h, by simpa using congrArg nField h⟩

theorem fields_of_mask_F0FF {w : Word} {op : BitVec 4} {nn : Byte} (h : w &&& 0xF0FF = encodeXI op 0 nn) :
    opField w = op ∧ nnField w = nn := by
  rw [mask_F0FF] at h
  exact ⟨by simpa using congrArg opField h, by simpa using congrArg nnField h⟩

/-! One rule per format of R62: `f` makes the row's instruction from its operands. For a row of the map, word and mnemonic hold by
computation. -/

section
variable {m : String} {v : Word}

theorem encodable_Z (i : Instr) (hi : encode i = v := by rfl) (hm : i.mnemonic = m := by rfl) :
    OpcodeRow.encodable ⟨m, 0xFFFF, v⟩ := by
  intro w h
  rw [OpcodeRow.selects_iff, mask_FFFF] at h
  exact ⟨i, hi.trans h.symm, hm⟩

theorem encodable_A (op : BitVec 4) (f : Addr → Instr) (hv : v = encodeA op 0 := by rfl)
    (hf : ∀ nnn, encode (f nnn) = encodeA op nnn := by intros; rfl)
    (hm : ∀ nnn, (f nnn).mnemonic = m := by intros; rfl) : OpcodeRow.encodable ⟨m, 0xF000, v⟩ := by
  intro w h
  have hop := opField_of_mask_F000 (((OpcodeRow.selects_iff _ w).mp h).trans hv)
  exact ⟨f (nnnField w), (hf _).trans (encodeA_of_opField hop), hm _⟩

theorem encodable_XI (op : BitVec 4) (f : Reg → Byte → Instr) (hv : v = encodeA op 0 := by rfl)
    (hf : ∀ x nn, encode (f x nn) = encodeXI op x nn := by intros; rfl)
    (hm : ∀ x nn, (f x nn).mnemonic = m := by intros; rfl) : OpcodeRow.encodable ⟨m, 0xF000, v⟩ := by
  intro w h
  have hop := opField_of_mask_F000 (((OpcodeRow.selects_iff _ w).mp h).trans hv)
  exact ⟨f (xField w) (nnField w), (hf _ _).trans (encodeXI_of_fields hop rfl), hm _ _⟩

theorem encodable_XYN (op : BitVec 4) (f : Reg → Reg → Nibble → Instr) (hv : v = encodeA op 0 := by rfl)
    (hf : ∀ x y n, encode (f x y n) = encodeXYN op x y n := by intros; rfl)
    (hm : ∀ x y n, (f x y n).mnemonic = m := by intros; rfl) : OpcodeRow.encodable ⟨m, 0xF000, v⟩ := by
  intro w h
  have hop := opField_of_mask_F000 (((OpcodeRow.selects_iff _ w).mp h).trans hv)
  exact ⟨f (xField w) (yField w) (nField w), (hf _ _ _).trans (encodeXYN_of_fields hop rfl), hm _ _ _⟩

theorem encodable_XY (op : BitVec 4) (n : Nibble) (f : Reg → Reg → Instr) (hv : v = encodeXYN op 0 0 n := by rfl)
    (hf : ∀ x y, encode (f x y) = encodeXYN op x y n := by intros; rfl)
    (hm : ∀ x y, (f x y).mnemonic = m := by intros; rfl) : OpcodeRow.encodable ⟨m, 0xF00F, v⟩ := by
  intro w h
  obtain ⟨hop, hn⟩ := fields_of_mask_F00F (((OpcodeRow.selects_iff _ w).mp h).trans hv)
  exact ⟨f (xField w) (yField w), (hf _ _).trans (encodeXYN_of_fields hop hn), hm _ _⟩

theorem encodable_XF (op : BitVec 4) (nn : Byte) (f : Reg → Instr) (hv : v = encodeXI op 0 nn := by rfl)
    (hf : ∀ x, encode (f x) = encodeXI op x nn := by intros; rfl)
    (hm : ∀ x, (f x).mnemonic = m := by intros; rfl) : OpcodeRow.encodable ⟨m, 0xF0FF, v⟩ := by
  intro w h
  obtain ⟨hop, hnn⟩ := fields_of_mask_F0FF (((OpcodeRow.selects_iff _ w).mp h).trans hv)
  exact ⟨f (xField w), (hf _).trans (encodeXI_of_fields hop hnn), hm _⟩

end

/-- The twelve rows of formats Z, A, XI and XYN. -/
theorem opcodeRowsWide_encodable : ∀ r ∈ opcodeRowsWide, r.encodable := by
  simp only [opcodeRowsWide, List.forall_mem_cons]
  exact ⟨encodable_Z .cls, encodable_Z .ret,
    encodable_A 0x1 .jp, encodable_A 0x2 .call,
    encodable_XI 0x3 .seImm, encodable_XI 0x4 .sneImm,
    encodable_XI 0x6 .ldImm, encodable_XI 0x7 .addImm,
    encodable_A 0xA .ldI, encodable_A 0xB .jpV0,
    encodable_XI 0xC .rnd, encodable_XYN 0xD .drw,
    by simp⟩

/-- The eleven rows of format XY. -/
theorem opcodeRowsXY_encodable : ∀ r ∈ opcodeRowsXY, r.encodable := by
  simp only [opcodeRowsXY, List.forall_mem_cons]
  exact ⟨encodable_XY 0x5 0x0 .seReg, encodable_XY 0x8 0x0 .ldReg,
    encodable_XY 0x8 0x1 .or, encodable_XY 0x8 0x2 .and,
    encodable_XY 0x8 0x3 .xor, encodable_XY 0x8 0x4 .addReg,
    encodable_XY 0x8 0x5 .sub, encodable_XY 0x8 0x6 .shr,
    encodable_XY 0x8 0x7 .subn, encodable_XY 0x8 0xE .shl,
    encodable_XY 0x9 0x0 .sneReg, by simp⟩

/-- The eleven rows of format XF. -/
theorem opcodeRowsXF_encodable : ∀ r ∈ opcodeRowsXF, r.encodable := by
  simp only [opcodeRowsXF, List.forall_mem_cons]
  exact ⟨encodable_XF 0xE 0x9E .skp, encodable_XF 0xE 0xA1 .sknp,
    encodable_XF 0xF 0x07 .ldVxDt, encodable_XF 0xF 0x0A .ldVxK,
    encodable_XF 0xF 0x15 .ldDtVx, encodable_XF 0xF 0x18 .ldStVx,
    encodable_XF 0xF 0x1E .addI, encodable_XF 0xF 0x29 .ldF,
    encodable_XF 0xF 0x33 .ldB, encodable_XF 0xF 0x55 .stRegs,
    encodable_XF 0xF 0x65 .ldRegs, by simp⟩

/-- A word that a row of the map selects decodes, to an instruction of that row. -/
theorem decodeWord_of_selects {w : Word} {r : OpcodeRow} (hr : r ∈ opcodeTable) (h : r.selects w = true) :
    ∃ i, decodeWord w = .ok i ∧ i.mnemonic = r.mnemonic := by
  have henc : r.encodable := by
    rw [opcodeTable, List.mem_append, List.mem_append] at hr
    obtain (hwide | hxy) | hxf := hr
    · exact opcodeRowsWide_encodable r hwide
    · exact opcodeRowsXY_encodable r hxy
    · exact opcodeRowsXF_encodable r hxf
  obtain ⟨i, rfl, hi⟩ := henc w h
  exact ⟨i, decodeWord_encode i, hi⟩

/-! ### Where the decoder rejects (R66) -/

theorem decodeFamily0_error_iff (w : Word) (e : DecodeError) :
    decodeFamily0 w = .error e ↔ .unknownInstruction w = e ∧ w ≠ 0x00E0 ∧ w ≠ 0x00EE := by
  unfold decodeFamily0
  split
  · next hcls => simp [hcls]
  · next hcls =>
    split
    · next hret => simp [hret]
    · next hret => simpa using fun _ => ⟨hcls, hret⟩

theorem decodeCompare_error_iff (w : Word) (f : Reg → Reg → Instr) (e : DecodeError) :
    decodeCompare w f = .error e ↔ .unknownInstruction w = e ∧ nField w ≠ 0 := by
  unfold decodeCompare
  split
  · next hn => simp [hn]
  · next hn => simpa using fun _ => hn

theorem decodeFamily8_error_iff (w : Word) (e : DecodeError) :
    decodeFamily8 w = .error e ↔
      .unknownInstruction w = e ∧ nField w ∈ ([0x8, 0x9, 0xA, 0xB, 0xC, 0xD, 0xF] : List Nibble) := by
  have hcompl : ∀ n : Nibble, n ∈ ([0x8, 0x9, 0xA, 0xB, 0xC, 0xD, 0xF] : List Nibble) ↔
      n ∉ ([0x0, 0x1, 0x2, 0x3, 0x4, 0x5, 0x6, 0x7, 0xE] : List Nibble) := by decide
  rw [hcompl]
  unfold decodeFamily8
  split
  case h_10 => simp_all [← BitVec.toNat_inj]
  all_goals simp [← BitVec.toNat_inj, *]

theorem decodeFamilyE_error_iff (w : Word) (e : DecodeError) :
    decodeFamilyE w = .error e ↔ .unknownInstruction w = e ∧ nnField w ∉ ([0x9E, 0xA1] : List Byte) := by
  unfold decodeFamilyE
  split
  case h_3 => simp_all [← BitVec.toNat_inj]
  all_goals simp [← BitVec.toNat_inj, *]

theorem decodeFamilyF_error_iff (w : Word) (e : DecodeError) :
    decodeFamilyF w = .error e ↔
      .unknownInstruction w = e ∧ nnField w ∉ ([0x07, 0x0A, 0x15, 0x18, 0x1E, 0x29, 0x33, 0x55, 0x65] : List Byte) := by
  unfold decodeFamilyF
  split
  case h_10 => simp_all [← BitVec.toNat_inj]
  all_goals simp [← BitVec.toNat_inj, *]

/-- R66's six groups, one for each family that rejects (`decodeWord_error_iff`). -/
def inUnknownGroup (w : Word) : Prop :=
  (opField w = 0x0 ∧ w ≠ 0x00E0 ∧ w ≠ 0x00EE) ∨
  (opField w = 0x5 ∧ nField w ≠ 0) ∨
  (opField w = 0x8 ∧ nField w ∈ ([0x8, 0x9, 0xA, 0xB, 0xC, 0xD, 0xF] : List Nibble)) ∨
  (opField w = 0x9 ∧ nField w ≠ 0) ∨
  (opField w = 0xE ∧ nnField w ∉ ([0x9E, 0xA1] : List Byte)) ∨
  (opField w = 0xF ∧ nnField w ∉ ([0x07, 0x0A, 0x15, 0x18, 0x1E, 0x29, 0x33, 0x55, 0x65] : List Byte))

theorem opField_eq_of_toNat {w : Word} {k : Nat} (h : (opField w).toNat = k) : opField w = BitVec.ofNat 4 k :=
  BitVec.eq_of_toNat_eq (by rw [BitVec.toNat_ofNat, ← h, Nat.mod_eq_of_lt (opField w).isLt])

/-- The decoder rejects exactly the words of the six groups, and by the one name. -/
theorem decodeWord_error_iff (w : Word) (e : DecodeError) :
    decodeWord w = .error e ↔ .unknownInstruction w = e ∧ inUnknownGroup w := by
  unfold decodeWord inUnknownGroup
  split
  case h_1 hop => simp [opField_eq_of_toNat hop, decodeFamily0_error_iff]
  case h_6 hop => simp [opField_eq_of_toNat hop, decodeCompare_error_iff]
  case h_9 hop => simp [opField_eq_of_toNat hop, decodeFamily8_error_iff]
  case h_10 hop => simp [opField_eq_of_toNat hop, decodeCompare_error_iff]
  case h_15 hop => simp [opField_eq_of_toNat hop, decodeFamilyE_error_iff]
  case h_16 =>
    have hop : opField w = 0xF := by
      have hlt := (opField w).isLt
      simp only [imp_false] at *
      exact opField_eq_of_toNat (k := 15) (by omega)
    simp [hop, decodeFamilyF_error_iff]
  case h_2 hop | h_3 hop | h_4 hop | h_5 hop | h_7 hop | h_8 hop | h_11 hop | h_12 hop | h_13 hop | h_14 hop =>
    simp [opField_eq_of_toNat hop]

/-- Settles O4: the round trips turn rows into instructions and back, and the rows of the map are disjoint. -/
theorem dispatchSelectsTheUniqueRow : Obligations.DispatchSelectsTheUniqueRow := by
  intro w
  refine ⟨fun i hi => ?_, fun r hr hw => ?_, fun hnone => ?_⟩
  · obtain ⟨r, hr, hm, hw⟩ := selects_of_decodeWord hi
    exact ⟨r, hr, hw, hm, OpcodeRow.eq_of_selects hr hw⟩
  · exact ⟨decodeWord_of_selects hr hw, OpcodeRow.eq_of_selects hr hw⟩
  · cases hd : decodeWord w with
    | error e => rw [← ((decodeWord_error_iff w e).mp hd).1]
    | ok i =>
      obtain ⟨r, hr, -, hw⟩ := selects_of_decodeWord hd
      simp [hnone r hr] at hw

/-- Settles O5: the rejections of the families that reject, put together. -/
theorem unknownWordsAreTheSixGroups : Obligations.UnknownWordsAreTheSixGroups :=
  fun w => (decodeWord_error_iff w _).trans (and_iff_right rfl)

/-- Settles O1: ten runs of the decoder and of the field extraction. -/
theorem workedDecodesOfTheSpec : Obligations.WorkedDecodesOfTheSpec :=
  ⟨⟨rfl, rfl⟩, ⟨rfl, rfl⟩, ⟨rfl, rfl⟩, ⟨rfl, rfl⟩, ⟨rfl, rfl⟩, ⟨rfl, rfl⟩, ⟨rfl, rfl⟩, ⟨rfl, rfl⟩, ⟨rfl, rfl⟩, ⟨rfl, rfl⟩⟩

end Sys2Proof

/-! PROOFS. The obligations of spec/40_cycle.md, and of spec/45_keypad_timers.md about the timers: how a cycle ends, the placing of a word
that the next cycle runs, and what one tick and a run of ticks do. -/

namespace Sys2Proof.Machine

/-! ### How a cycle ends -/

theorem fetchDecode_ok {s : State} {w : Word} {i : Instr} (hw : s.fetchWord = .ok w) (hi : decodeWord w = .ok i) :
    fetchDecode s = .ok i := by
  simp only [fetchDecode, hw, hi]

theorem step_of_not_runnable {s : State} (h : runnable s = false) : step s = .next (noopCycle s) := by
  simp [step, h]

theorem step_of_fetchDecode_error {s t : State} (hr : runnable s = true) (hf : fetchDecode (beginCycle s) = .error t) :
    step s = .next t := by
  simp only [step, hr, if_true, hf]

theorem step_of_exec {s u : State} {i : Instr} (hr : runnable s = true) (hf : fetchDecode (beginCycle s) = .ok i)
    (hu : exec i (beginCycle s) = .next u) : step s = .next (finishCycle u) := by
  simp only [step, hr, if_true, hf, hu]

/-- A faulted cycle is over (R90). -/
theorem finishCycle_of_halted {s : State} (h : s.halted = true) : finishCycle s = s := if_pos h

/-- A completed cycle ticks (R88). -/
theorem finishCycle_of_running {s : State} (h : s.halted = false) : finishCycle s = tick s := by
  simp [finishCycle, h]

theorem step_next (s : State) : ∃ t, step s = .next t := by
  cases hr : runnable s with
  | false => exact ⟨_, step_of_not_runnable hr⟩
  | true =>
    cases hf : fetchDecode (beginCycle s) with
    | error t => exact ⟨t, step_of_fetchDecode_error hr hf⟩
    | ok i =>
      obtain ⟨u, hu⟩ := exec_next i (beginCycle s)
      exact ⟨_, step_of_exec hr hf hu⟩

/-- Settles O19. -/
theorem everyInstructionAndEveryCycleAnswersNext : Obligations.EveryInstructionAndEveryCycleAnswersNext :=
  ⟨exec_next, step_next⟩

/-- Settles O12: the gate of R81 is closed. -/
theorem noopCycleChangesNothing : Obligations.NoopCycleChangesNothing := by
  intro s h
  refine step_of_not_runnable (Bool.eq_false_iff.mpr fun hr => ?_)
  obtain ⟨hl, hh⟩ := (runnable_iff s).mp hr
  simp [hl, hh] at h

/-- Two bytes decode as the word they make up (R60). -/
theorem decodeWord_of_decode_pair {hi lo : Byte} {i : Instr} {rest : List Byte} (h : decode [hi, lo] = .ok (i, rest)) :
    decodeWord (wordOfBytes hi lo) = .ok i := by
  cases hd : decodeWord (wordOfBytes hi lo) with
  | error e => simp [decode, hd] at h
  | ok j =>
    simp only [decode, hd, Except.ok.injEq, Prod.mk.injEq] at h
    rw [h.1]

/-- Settles O13: `step_of_exec`, with the end of the cycle written out. -/
theorem stepRunsTheDecodedInstruction : Obligations.StepRunsTheDecodedInstruction := by
  intro s i hl hh hpc hdec
  have hf : fetchDecode (beginCycle s) = .ok i := fetchDecode_ok (fetchWord_ok hpc) (decodeWord_of_decode_pair hdec)
  obtain ⟨u, hu⟩ := exec_next i (beginCycle s)
  rw [step_of_exec ((runnable_iff s).mpr ⟨hl, hh⟩) hf hu, show exec i { s with displayChanged := false } = .next u from hu]
  rfl

/-! ### A placed word (log entry 6) -/

theorem decodeTableWord_eq_some_iff {n w : Nat} {i : Instr} :
    decodeTableWord n w = some i ↔ decodeWord (tableWord n w) = .ok i := by
  unfold decodeTableWord
  cases h : decodeWord (tableWord n w) <;> simp [decode, h]

theorem placeAddress_le (s : State) : (placeAddress s).toNat ≤ 0xFFE := by
  unfold placeAddress
  split
  · assumption
  · decide

/-- A word stored at `pc`, the high byte first, is the word that the fetch reads (R46). -/
theorem setBytes_fetchWord {s : State} (v : Word) (hs : s.memoryCanonical) (hpc : s.pc.toNat ≤ 0xFFE) :
    (s.setBytes s.pc.toNat [highByte v, lowByte v]).fetchWord = .ok v := by
  have hfit : s.pc.toNat + [highByte v, lowByte v].length ≤ Config.memSize := by
    simp only [List.length_cons, List.length_nil, Config.memSize]
    omega
  have hhigh := setBytes_byteAt_same s s.pc.toNat 0 _ hfit hs (by simp)
  have hlow := setBytes_byteAt_same s s.pc.toNat 1 _ hfit hs (by simp)
  have hkeep : (s.setBytes s.pc.toNat [highByte v, lowByte v]).pc = s.pc := by rw [setBytes_eq]
  rw [fetchWord_ok (by rwa [hkeep]), hkeep]
  simp only [Nat.add_zero] at hhigh
  rw [hhigh, hlow]
  exact congrArg _ (wordOfBytes_high_low v)

theorem placeWord_runnable (s : State) (n w : Nat) : runnable (placeWord s n w) = true := by
  rw [placeWord, setBytes_eq]
  rfl

theorem placeWord_fetchWord {s : State} (hs : s.memoryCanonical) (n w : Nat) :
    (placeWord s n w).fetchWord = .ok (tableWord n w) :=
  setBytes_fetchWord (s := { s with pc := placeAddress s, loaded := true, halted := false }) _ hs (placeAddress_le s)

/-- Settles O20. -/
theorem placedWordIsTheNextInstruction : Obligations.PlacedWordIsTheNextInstruction := fun s w _ hs hi =>
  ⟨placeWord_runnable s 16 w, fetchDecode_ok (placeWord_fetchWord hs 16 w) (decodeTableWord_eq_some_iff.mp hi)⟩

/-! ### Ticks -/

theorem bne_zero_eq_decide (v : Byte) : (v != 0) = decide (0 < v.toNat) := by
  rw [Bool.eq_iff_iff, bne_iff_ne, decide_eq_true_iff, Nat.pos_iff_ne_zero, ne_eq, ne_eq, ← BitVec.toNat_inj]
  rfl

/-- Settles O16. -/
theorem tickCountsDownAndBeeps : Obligations.TickCountsDownAndBeeps :=
  fun s => ⟨countDown_toNat s.DT, countDown_toNat s.ST, bne_iff_ne, rfl⟩

theorem iterate_tick_DT (s : State) (k : Nat) : (tick^[k] s).DT.toNat = s.DT.toNat - k := by
  induction k with
  | zero => rfl
  | succ k ih => rw [Function.iterate_succ_apply', tick_DT, countDown_toNat, ih, Nat.sub_sub]

theorem iterate_tick_ST (s : State) (k : Nat) : (tick^[k] s).ST.toNat = s.ST.toNat - k := by
  induction k with
  | zero => rfl
  | succ k ih => rw [Function.iterate_succ_apply', tick_ST, countDown_toNat, ih, Nat.sub_sub]

/-- The last of `k + 1` ticks beeps when the `k` before it have not used up the sound timer (R89). -/
theorem iterate_tick_beep (s : State) (k : Nat) : (tick^[k + 1] s).beep = decide (k < s.ST.toNat) := by
  rw [Function.iterate_succ_apply', tick_beep, bne_zero_eq_decide, iterate_tick_ST, decide_eq_decide, Nat.sub_pos_iff_lt]

/-- Settles O17. -/
theorem timersCountCyclesAndBeepLastsSTCycles : Obligations.TimersCountCyclesAndBeepLastsSTCycles :=
  fun s k => ⟨iterate_tick_DT s k, iterate_tick_ST s k, iterate_tick_beep s k⟩

/-! ### What an instruction leaves in the timers -/

theorem exec_DT_of_ne {i : Instr} {s t : State} (hi : ∀ x, i ≠ .ldDtVx x) (h : exec i s = .next t) : t.DT = s.DT := by
  refine (exec_confined h).delay fun hm => ?_
  cases i with
  | ldDtVx x => exact hi x rfl
  | _ => simp [Instr.mnemonic] at hm

theorem exec_ST_of_ne {i : Instr} {s t : State} (hi : ∀ x, i ≠ .ldStVx x) (h : exec i s = .next t) : t.ST = s.ST := by
  refine (exec_confined h).sound fun hm => ?_
  cases i with
  | ldStVx x => exact hi x rfl
  | _ => simp [Instr.mnemonic] at hm

theorem exec_ldVxDt (x : Reg) (s : State) : exec (.ldVxDt x) s = .next (s.setReg x s.DT).advance := rfl

theorem exec_ldDtVx (x : Reg) (s : State) : exec (.ldDtVx x) s = .next (s.setDT (s.reg x)).advance := rfl

theorem exec_ldStVx (x : Reg) (s : State) : exec (.ldStVx x) s = .next (s.setST (s.reg x)).advance := rfl

/-- A running core that fetches an instruction's word ends the cycle as `exec` and `finishCycle` say. -/
theorem exec_of_step {s t : State} {i : Instr} (hr : runnable s = true) (hw : s.fetchWord = .ok (encode i))
    (h : step s = .next t) : ∃ u, exec i (beginCycle s) = .next u ∧ t = finishCycle u := by
  obtain ⟨u, hu⟩ := exec_next i (beginCycle s)
  exact ⟨u, hu, next_inj h (step_of_exec hr (fetchDecode_ok hw (decodeWord_encode i)) hu)⟩

/-- Settles O18: a halted end is a taken fault, which skips the tick; any other end is the tick of what the instruction left. -/
theorem everyCompletedCycleTicksOnce : Obligations.EveryCompletedCycleTicksOnce := by
  intro s t i hl hh hw h
  obtain ⟨u, hu, rfl⟩ := exec_of_step ((runnable_iff s).mpr ⟨hl, hh⟩) hw h
  rw [finishCycle_halted]
  constructor
  · intro hhalt
    rw [finishCycle_of_halted hhalt]
    obtain ⟨c, n, rfl⟩ := (exec_halted_iff (s := beginCycle s) hh hu).mp hhalt
    exact ⟨rfl, rfl, rfl⟩
  · intro hrun
    rw [finishCycle_of_running hrun, tick_DT, tick_ST, tick_beep, countDown_toNat, countDown_toNat]
    refine ⟨fun hi => ?_, fun hi => ?_, ?_, ?_⟩
    · rw [exec_DT_of_ne hi hu, beginCycle_DT]
    · rw [exec_ST_of_ne hi hu, beginCycle_ST]
      exact ⟨rfl, rfl⟩
    · rintro x rfl
      obtain rfl := next_inj hu (exec_ldDtVx x _)
      rfl
    · rintro x rfl
      obtain rfl := next_inj hu (exec_ldStVx x _)
      exact ⟨rfl, rfl⟩

/-! ### `FX07`, `FX15` and `FX18` -/

theorem setReg_advance_onlyRegs (s : State) (x : Reg) (v : Byte) : onlyRegs (fun r => r = x) s (s.setReg x v).advance :=
  ⟨fun _ hr => setReg_reg_of_ne s v (Ne.symm hr), rfl, ⟨rfl, rfl⟩, ⟨rfl, rfl⟩, ⟨rfl, rfl⟩, fun _ => rfl,
    ⟨rfl, rfl, rfl, rfl, rfl, rfl⟩, rfl⟩

/-- Settles O59: the counts over `k` ticks are those of any state, begun at the written value. -/
theorem timerInstructionsMoveTheTimers : Obligations.TimerInstructionsMoveTheTimers := by
  intro x s
  refine ⟨⟨encodeXF_masked 0xF x 0x07, _, exec_ldVxDt x s, ?_, countDown_toNat s.DT, rfl, setReg_advance_onlyRegs s x _⟩,
    ⟨encodeXF_masked 0xF x 0x15, _, exec_ldDtVx x s, rfl, iterate_tick_DT _, rfl, rfl, fun _ => rfl, rfl, ⟨rfl, rfl⟩,
      ⟨rfl, rfl⟩, fun _ => rfl, ⟨rfl, rfl, rfl, rfl, rfl, rfl⟩, rfl⟩,
    ⟨encodeXF_masked 0xF x 0x18, _, exec_ldStVx x s, rfl, fun k => ⟨iterate_tick_ST _ (k + 1), iterate_tick_beep _ k⟩, rfl,
      rfl, fun _ => rfl, rfl, ⟨rfl, rfl⟩, ⟨rfl, rfl⟩, fun _ => rfl, ⟨rfl, rfl, rfl, rfl, rfl, rfl⟩, rfl⟩⟩
  exact setReg_reg_same s x s.DT

end Sys2Proof.Machine

/-! PROOFS. The obligations of spec/41_control_flow.md: what each transfer of control leaves, said once per instruction, and the frames
that they share. -/

namespace Sys2Proof.Machine

/-! ### Jumps -/

theorem setPc_onlyPc (s : State) (v : Word) : onlyPc s (s.setPc v) :=
  ⟨fun _ _ => rfl, rfl, ⟨rfl, rfl⟩, ⟨rfl, rfl⟩, ⟨rfl, rfl⟩, fun _ => rfl, ⟨rfl, rfl, rfl, rfl, rfl, rfl⟩, rfl⟩

theorem exec_jp (nnn : Addr) (s : State) : exec (.jp nnn) s = .next (s.setPc (zextAddr nnn)) := rfl

theorem exec_jpV0 (nnn : Addr) (s : State) :
    exec (.jpV0 nnn) s = .next (s.setPc (zextAddr nnn + zextByte (s.reg 0))) := rfl

/-- Settles O35. -/
theorem jumpGoesToTheTarget : Obligations.JumpGoesToTheTarget :=
  fun nnn s => ⟨encodeA_masked 0x1 nnn, _, exec_jp nnn s, zextAddr_toNat nnn, setPc_onlyPc s _⟩

/-- The sum of R103 is at most 0xFFF + 0xFF, so 16 bits hold it. -/
theorem zextAddr_add_zextByte_toNat (nnn : Addr) (v : Byte) :
    (zextAddr nnn + zextByte v).toNat = nnn.toNat + v.toNat := by
  rw [BitVec.toNat_add, zextAddr_toNat, zextByte_toNat]
  omega

/-- Settles O37: the sum does not wrap. -/
theorem jumpWithOffsetAddsV0 : Obligations.JumpWithOffsetAddsV0 := fun nnn s =>
  ⟨encodeA_masked 0xB nnn, _, exec_jpV0 nnn s, zextAddr_add_zextByte_toNat nnn (s.reg 0), setPc_onlyPc s _⟩

/-! ### Skips -/

/-- The shape that R105 to R108 share: the instruction skips on a `Bool` that computes the rule's condition `p`. -/
theorem exec_skips_of_iff {i : Instr} {s : State} {c : Bool} {p : Prop} [Decidable p] (hi : exec i s = .next (s.skipIf c))
    (hc : c = true ↔ p) :
    ∃ t, exec i s = .next t ∧ onlyPc s t ∧ t.pc = if p then s.pc + 4 else s.pc + 2 :=
  ⟨_, hi, setPc_onlyPc s _, skipIf_pc_of_iff hc⟩

/-- Settles O39: the four conditions are an equality of bytes or its negation. -/
theorem registerSkipsAdvanceByFourOrTwo : Obligations.RegisterSkipsAdvanceByFourOrTwo := fun x y nn _ =>
  ⟨⟨encodeXI_masked 0x3 x nn, exec_skips_of_iff rfl beq_iff_eq⟩,
    ⟨encodeXI_masked 0x4 x nn, exec_skips_of_iff rfl bne_iff_ne⟩,
    ⟨encodeXY_masked 0x5 x y 0x0, exec_skips_of_iff rfl beq_iff_eq⟩,
    ⟨encodeXY_masked 0x9 x y 0x0, exec_skips_of_iff rfl bne_iff_ne⟩⟩

/-! ### Call and return -/

theorem onlyStack_of_moved (s : State) (p : Word) (n : Fin 17) (st : Vector Word 16) :
    onlyStack s { s with pc := p, sp := n, stack := st } :=
  ⟨fun _ => rfl, rfl, ⟨rfl, rfl⟩, ⟨rfl, rfl⟩, fun _ => rfl, ⟨rfl, rfl, rfl, rfl, rfl, rfl⟩, rfl⟩

/-- With entry `sp` free, the call fills it with its own address (R102). -/
theorem exec_call_of_room (nnn : Addr) {s : State} (h : s.sp.val < 16) :
    exec (.call nnn) s = .next
      { s with pc := zextAddr nnn, sp := ⟨s.sp.val + 1, by omega⟩, stack := s.stack.set s.sp.val s.pc } := by
  simp only [exec, execCall, push_some s.pc h]
  rfl

theorem exec_call_of_full (nnn : Addr) {s : State} (h : s.sp.val = 16) :
    exec (.call nnn) s = .next (takeFault .stackOverflow (encode (.call nnn)) 0 s) := by
  simp only [exec, execCall, push_none s.pc h]

/-- With `k` the most recent live entry, the return moves `sp` down to it and erases nothing (R104). -/
theorem exec_ret_of_top {s : State} {k : Fin 16} (hk : k.val + 1 = s.sp.val) :
    exec .ret s = .next { s with pc := s.stack[k.val] + 2, sp := k.castSucc } := by
  have hlive : 0 < s.sp.val := by omega
  have htop : s.sp.val - 1 = k.val := by omega
  simp only [exec, execRet, pop_some hlive, htop]
  rfl

theorem exec_ret_of_empty {s : State} (h : s.sp.val = 0) :
    exec .ret s = .next (takeFault .stackUnderflow (encode .ret) 0 s) := by
  simp only [exec, execRet, pop_none h]

/-- Settles O36. -/
theorem callPushesItsOwnAddress : Obligations.CallPushesItsOwnAddress := by
  intro nnn s
  refine ⟨encodeA_masked 0x2 nnn, fun h => ⟨_, exec_call_of_room nnn h, zextAddr_toNat nnn, rfl, fun k => ?_,
    onlyStack_of_moved s _ _ _⟩, exec_call_of_full nnn⟩
  rw [Vector.getElem_set]
  simp only [eq_comm]

/-- Settles O38. -/
theorem returnGoesPastThePoppedCall : Obligations.ReturnGoesPastThePoppedCall := fun s =>
  ⟨mask_FFFF _, fun _ hk => ⟨_, exec_ret_of_top hk, BitVec.toNat_add _ 2, rfl, rfl, onlyStack_of_moved s _ _ _⟩,
    exec_ret_of_empty⟩

/-- Settles O40 (S9): the entry that the return pops is the one that the call filled. -/
theorem callThenReturnComesBack : Obligations.CallThenReturnComesBack := by
  intro nnn s h
  refine ⟨_, exec_call_of_room nnn h, fun m hsp hstack => ?_⟩
  have htop : (⟨s.sp.val, h⟩ : Fin 16).val + 1 = m.sp.val := by rw [hsp]
  refine ⟨_, exec_ret_of_top htop, ?_, rfl⟩
  simp only [hstack, Vector.getElem_set_self]

end Sys2Proof.Machine

/-! PROOFS. The obligations of spec/42_register_alu.md: the frames and register values of one and of two register writes, the flags as
numbers, and then each operation. -/

namespace Sys2Proof.Machine

/-! ### One register write -/

/-- The shape that R121 to R126 share: `VX` receives a value and nothing else changes but `pc`. -/
theorem exec_assigns {i : Instr} {s : State} {x : Reg} {v : Byte} (hi : exec i s = .next (s.setReg x v).advance) :
    ∃ t, exec i s = .next t ∧ t.reg x = v ∧ t.pc = s.pc + 2 ∧ onlyRegs (fun r => r = x) s t :=
  ⟨_, hi, setReg_reg_same s x v, rfl, setReg_advance_onlyRegs s x v⟩

/-- Settles O41. -/
theorem immediateLoadAndAdd : Obligations.ImmediateLoadAndAdd := by
  intro x nn s
  obtain ⟨t, hexec, hx, hrest⟩ := exec_assigns (i := .addImm x nn) (s := s) rfl
  refine ⟨⟨encodeXI_masked 0x6 x nn, exec_assigns rfl⟩, encodeXI_masked 0x7 x nn, t, hexec, ?_, hrest⟩
  rw [hx, BitVec.toNat_add]

/-- Settles O42. -/
theorem copyAndBitwiseOperations : Obligations.CopyAndBitwiseOperations := fun x y _ =>
  ⟨⟨encodeXY_masked 0x8 x y 0x0, exec_assigns rfl⟩, ⟨encodeXY_masked 0x8 x y 0x1, exec_assigns rfl⟩,
    ⟨encodeXY_masked 0x8 x y 0x2, exec_assigns rfl⟩, ⟨encodeXY_masked 0x8 x y 0x3, exec_assigns rfl⟩⟩

/-! ### A register write and a flag write -/

/-- Writing the flag and `VX`, in either order, leaves the frame of the flag-writing instructions. -/
theorem setReg_setReg_advance_onlyRegs (s : State) {W : Reg → Prop} {q r : Reg} (hq : W q) (hr : W r) (v w : Byte) :
    onlyRegs W s ((s.setReg q v).setReg r w).advance :=
  ⟨keepsRegs_setReg (keepsRegs_setReg (fun _ _ => rfl) hq v) hr w, rfl, ⟨rfl, rfl⟩, ⟨rfl, rfl⟩, ⟨rfl, rfl⟩, fun _ => rfl,
    ⟨rfl, rfl, rfl, rfl, rfl, rfl⟩, rfl⟩

theorem setFlag_setReg_advance_onlyRegs (s : State) (x : Reg) (b : Bool) (v : Byte) :
    onlyRegs (fun r => r = x ∨ r = regF) s ((s.setFlag b).setReg x v).advance :=
  setReg_setReg_advance_onlyRegs s (Or.inr rfl) (Or.inl rfl) _ v

theorem setFlag_reg_of_ne (s : State) {q : Reg} (b : Bool) (h : q ≠ regF) : (s.setFlag b).reg q = s.reg q :=
  setReg_reg_of_ne s _ (Ne.symm h)

/-- A flag written first stays, unless the destination is `VF` itself. -/
theorem setFlag_setReg_reg_regF (s : State) {x : Reg} (b : Bool) (v : Byte) (h : x ≠ regF) :
    ((s.setFlag b).setReg x v).reg regF = flagByte b := by
  rw [setReg_reg_of_ne _ v h, setFlag_reg_same]

/-! ### The flags as conditions and numbers -/

theorem flagByte_decide (p : Prop) [Decidable p] : flagByte (decide p) = if p then 1 else 0 := by
  simp only [flagByte, decide_eq_true_eq]

theorem highBitFlag_eq_decide (v : Byte) : highBitFlag v = decide (128 ≤ v.toNat) := BitVec.msb_eq_decide v

theorem flagByte_lowBitFlag_toNat (v : Byte) : (flagByte (lowBitFlag v)).toNat = v.toNat % 2 := by
  have hbit : lowBitFlag v = decide (v.toNat % 2 = 1) := Nat.testBit_zero v.toNat
  rw [hbit, flagByte_decide]
  split
  · next hodd => exact hodd.symm
  · next heven => exact (Nat.mod_two_ne_one.mp heven).symm

theorem flagByte_highBitFlag_toNat (v : Byte) : (flagByte (highBitFlag v)).toNat = v.toNat / 128 := by
  rw [highBitFlag_eq_decide, flagByte_toNat]
  simp only [decide_eq_true_eq]
  split <;> omega

/-! ### `8XY4` -/

theorem exec_addReg (x y : Reg) (s : State) :
    exec (.addReg x y) s = .next ((s.setReg x (s.reg x + s.reg y)).setFlag (carryFlag (s.reg x) (s.reg y))).advance := rfl

/-- Settles O43: the carry is written over the sum, which is lost when `X` is 15. -/
theorem addReportsTheCarry : Obligations.AddReportsTheCarry := by
  intro x y s
  refine ⟨encodeXY_masked 0x8 x y 0x4, _, exec_addReg x y s, fun hx => ?_, ?_, rfl,
    setReg_setReg_advance_onlyRegs s (Or.inl rfl) (Or.inr rfl) _ _⟩
  · rw [advance_reg, setFlag_reg_of_ne _ _ hx, setReg_reg_same, BitVec.toNat_add]
  · rw [advance_reg, setFlag_reg_same, carryFlag, flagByte_decide]

/-! ### `8XY5` and `8XY7` -/

/-- The flag of a subtraction, as the rules write it. -/
theorem flagByte_greaterFlag (a b : Byte) : flagByte (greaterFlag a b) = if b.toNat < a.toNat then 1 else 0 :=
  flagByte_decide _

theorem byte_sub_toNat (a b : Byte) : (a - b).toNat = (256 + a.toNat - b.toNat) % 256 := by
  rw [BitVec.toNat_sub]
  omega

section
variable (x : Reg) {m n : Reg} (s : State)

theorem subtractInto_advance_onlyRegs : onlyRegs (fun r => r = x ∨ r = regF) s (subtractInto x m n s).advance :=
  setFlag_setReg_advance_onlyRegs s x _ _

/-! The difference, by which operand the flag write has replaced. -/

theorem subtractInto_toNat (hm : m ≠ regF) (hn : n ≠ regF) :
    ((subtractInto x m n s).reg x).toNat = (256 + (s.reg m).toNat - (s.reg n).toNat) % 256 := by
  rw [subtractInto, setReg_reg_same, setFlag_reg_of_ne s _ hm, setFlag_reg_of_ne s _ hn, byte_sub_toNat]

theorem subtractInto_toNat_of_minuend_regF (hn : n ≠ regF) :
    ((subtractInto x regF n s).reg x).toNat =
      (256 + (flagByte (greaterFlag (s.reg regF) (s.reg n))).toNat - (s.reg n).toNat) % 256 := by
  rw [subtractInto, setReg_reg_same, setFlag_reg_same, setFlag_reg_of_ne s _ hn, byte_sub_toNat]

theorem subtractInto_toNat_of_subtrahend_regF (hm : m ≠ regF) :
    ((subtractInto x m regF s).reg x).toNat =
      (256 + (s.reg m).toNat - (flagByte (greaterFlag (s.reg m) (s.reg regF))).toNat) % 256 := by
  rw [subtractInto, setReg_reg_same, setFlag_reg_of_ne s _ hm, setFlag_reg_same, byte_sub_toNat]

theorem subtractInto_self (m : Reg) : (subtractInto x m m s).reg x = 0 := by
  rw [subtractInto, setReg_reg_same]
  exact BitVec.sub_self _

variable {x}

theorem subtractInto_reg_regF (hx : x ≠ regF) :
    (subtractInto x m n s).reg regF = flagByte (greaterFlag (s.reg m) (s.reg n)) :=
  setFlag_setReg_reg_regF s _ _ hx

end

theorem exec_sub (x y : Reg) (s : State) : exec (.sub x y) s = .next (subtractInto x x y s).advance := rfl

theorem exec_subn (x y : Reg) (s : State) : exec (.subn x y) s = .next (subtractInto x y x s).advance := rfl

/-- Settles O44: the minuend is `VX`, so `X` = 15 replaces the minuend by the flag and `Y` = 15 the subtrahend. -/
theorem subtractComparesStrictlyThenSubtracts : Obligations.SubtractComparesStrictlyThenSubtracts := by
  intro x y s
  refine ⟨encodeXY_masked 0x8 x y 0x5, _, exec_sub x y s, rfl, subtractInto_advance_onlyRegs x s, ?_⟩
  simp only [advance_reg, ← flagByte_greaterFlag]
  refine ⟨fun hx hy => ⟨subtractInto_toNat x s hx hy, subtractInto_reg_regF s hx⟩, ?_, ?_, ?_⟩
  · rintro rfl hy
    exact subtractInto_toNat_of_minuend_regF regF s hy
  · rintro hx rfl
    exact ⟨subtractInto_toNat_of_subtrahend_regF x s hx, subtractInto_reg_regF s hx⟩
  · rintro rfl rfl
    exact subtractInto_self regF s regF

/-- Settles O45: the minuend is `VY`, so `X` = 15 replaces the subtrahend by the flag and `Y` = 15 the minuend. -/
theorem reverseSubtractComparesStrictlyThenSubtracts : Obligations.ReverseSubtractComparesStrictlyThenSubtracts := by
  intro x y s
  refine ⟨encodeXY_masked 0x8 x y 0x7, _, exec_subn x y s, rfl, subtractInto_advance_onlyRegs x s, ?_⟩
  simp only [advance_reg, ← flagByte_greaterFlag]
  refine ⟨fun hx hy => ⟨subtractInto_toNat x s hy hx, subtractInto_reg_regF s hx⟩, ?_, ?_, ?_⟩
  · rintro rfl hy
    exact subtractInto_toNat_of_subtrahend_regF regF s hy
  · rintro hx rfl
    exact ⟨subtractInto_toNat_of_minuend_regF x s hx, subtractInto_reg_regF s hx⟩
  · rintro rfl rfl
    exact subtractInto_self regF s regF

/-! ### `8XY6` and `8XYE` -/

theorem exec_shr (x y : Reg) (s : State) :
    exec (.shr x y) s = .next
      ((s.setFlag (lowBitFlag (s.reg x))).setReg x ((s.setFlag (lowBitFlag (s.reg x))).reg x >>> 1)).advance := rfl

theorem exec_shl (x y : Reg) (s : State) :
    exec (.shl x y) s = .next
      ((s.setFlag (highBitFlag (s.reg x))).setReg x ((s.setFlag (highBitFlag (s.reg x))).reg x <<< 1)).advance := rfl

theorem flagByte_ushiftRight_one (b : Bool) : flagByte b >>> 1 = 0 := by
  cases b <;> rfl

theorem flagByte_shiftLeft_one (b : Bool) : flagByte b <<< 1 = if b then 2 else 0 := by
  cases b <;> rfl

/-- Settles O46: with `X` = 15 the byte shifted is the flag just written. -/
theorem shiftsMoveTheLostBitToVF : Obligations.ShiftsMoveTheLostBitToVF := by
  intro x y s
  refine ⟨⟨encodeXY_masked 0x8 x y 0x6, _, exec_shr x y s, rfl, setFlag_setReg_advance_onlyRegs s x _ _,
      fun hx => ⟨?_, ?_⟩, ?_⟩,
    ⟨encodeXY_masked 0x8 x y 0xE, _, exec_shl x y s, rfl, setFlag_setReg_advance_onlyRegs s x _ _,
      fun hx => ⟨?_, ?_⟩, ?_⟩⟩
  · rw [advance_reg, setReg_reg_same, setFlag_reg_of_ne s _ hx, BitVec.toNat_ushiftRight, Nat.shiftRight_one]
  · rw [advance_reg, setFlag_setReg_reg_regF s _ _ hx, flagByte_lowBitFlag_toNat]
  · rintro rfl
    rw [advance_reg, setReg_reg_same, setFlag_reg_same, flagByte_ushiftRight_one]
  · rw [advance_reg, setReg_reg_same, setFlag_reg_of_ne s _ hx, BitVec.toNat_shiftLeft, Nat.shiftLeft_eq, pow_one, mul_comm]
  · rw [advance_reg, setFlag_setReg_reg_regF s _ _ hx, flagByte_highBitFlag_toNat]
  · rintro rfl
    rw [advance_reg, setReg_reg_same, setFlag_reg_same, flagByte_shiftLeft_one, highBitFlag_eq_decide]
    simp only [decide_eq_true_eq]

end Sys2Proof.Machine

/-! PROOFS. The obligations of spec/43_index_memory.md: the three writers of `I`, the two ends of an access to the bytes
from `I` on, the frame of a stored run, and then what `FX33`, `FX55` and `FX65` store and load. -/

namespace Sys2Proof.Machine

/-! ### `ANNN`, `FX29` and `FX1E` -/

theorem exec_ldI (nnn : Addr) (s : State) : exec (.ldI nnn) s = .next (s.setI (zextAddr nnn)).advance := rfl

theorem exec_ldF (x : Reg) (s : State) :
    exec (.ldF x) s = .next (s.setI (0x050 + 5 * zextByte (s.reg x))).advance := rfl

theorem exec_addI (x : Reg) (s : State) :
    exec (.addI x) s = .next
      ((s.setI (s.I + zextByte (s.reg x))).setFlag (indexRangeFlag s.I (s.reg x))).advance := rfl

theorem setI_advance_onlyIndex (s : State) (v : Word) : onlyIndex (fun _ => False) s (s.setI v).advance :=
  ⟨fun _ _ => rfl, ⟨rfl, rfl⟩, ⟨rfl, rfl⟩, ⟨rfl, rfl⟩, fun _ => rfl, ⟨rfl, rfl, rfl, rfl, rfl, rfl⟩, rfl⟩

theorem setI_setFlag_advance_onlyIndex (s : State) (v : Word) (b : Bool) :
    onlyIndex (fun r => r = regF) s ((s.setI v).setFlag b).advance :=
  ⟨fun _ hr => setFlag_reg_of_ne (s.setI v) b hr, ⟨rfl, rfl⟩, ⟨rfl, rfl⟩, ⟨rfl, rfl⟩, fun _ => rfl,
    ⟨rfl, rfl, rfl, rfl, rfl, rfl⟩, rfl⟩

/-- The glyph address of R142 is at most 0x54B, so 16 bits hold it. -/
theorem glyphAddress_toNat (v : Byte) : (0x050 + 5 * zextByte v).toNat = 0x050 + 5 * v.toNat := by
  have hv := zextByte_toNat v
  bv_omega

/-- Settles O48. -/
theorem indexLoadsSetI : Obligations.IndexLoadsSetI := fun nnn x s =>
  ⟨⟨encodeA_masked 0xA nnn, _, exec_ldI nnn s, zextAddr_toNat nnn, rfl, setI_advance_onlyIndex s _⟩,
    ⟨encodeXF_masked 0xF x 0x29, _, exec_ldF x s, glyphAddress_toNat (s.reg x), rfl, setI_advance_onlyIndex s _⟩⟩

/-- Settles O49: both the sum and the flag are of the operands before the instruction. -/
theorem indexAddWrapsAndFlagsTheRange : Obligations.IndexAddWrapsAndFlagsTheRange := by
  intro x s
  refine ⟨encodeXF_masked 0xF x 0x1E, _, exec_addI x s, ?_, ?_, rfl, setI_setFlag_advance_onlyIndex s _ _⟩
  · rw [advance_I, setFlag_I, setI_I, BitVec.toNat_add, zextByte_toNat]
  · rw [advance_reg, setFlag_reg_same, indexRangeFlag, flagByte_decide]

/-! ### The two ends of an access to the bytes from `I` on -/

/-- The address that the range check reports is the `max(I, 0x1000)` of R190. -/
theorem ofNat_max_eq_lowestOutside (s : State) : BitVec.ofNat 16 (max s.I.toNat 0x1000) = lowestOutside s := by
  unfold lowestOutside
  split
  · next h => exact congrArg (BitVec.ofNat 16) (Nat.max_eq_right (Nat.le_of_lt h))
  · next h => rw [Nat.max_eq_left (Nat.le_of_not_lt h), BitVec.ofNat_toNat, BitVec.setWidth_eq]

theorem finishAccess_writeRun_inside {o : Word} {s : State} {bs : List Byte} (h : s.I.toNat + (bs.length - 1) ≤ 0xFFF) :
    finishAccess o s (s.writeRun (s.effectiveAddress 0) bs) = .next (s.setBytes s.I.toNat bs).advance := by
  rw [effectiveAddress_eq, Nat.add_zero, writeRun_ok s (.inr h), finishAccess_ok]

theorem finishAccess_writeRun_outside {o : Word} {s : State} {bs : List Byte} (hn : 0 < bs.length)
    (h : 0xFFF < s.I.toNat + (bs.length - 1)) :
    finishAccess o s (s.writeRun (s.effectiveAddress 0) bs) =
      .next (faulted s .memoryOutOfRange o (lowestOutside s)) := by
  rw [effectiveAddress_eq, Nat.add_zero, writeRun_error s hn h, ofNat_max_eq_lowestOutside]
  rfl

theorem finishAccess_readRun_inside {o : Word} {s : State} {n : Nat} {f : List Byte → State}
    (h : s.I.toNat + (n - 1) ≤ 0xFFF) :
    finishAccess o s ((s.readRun (s.effectiveAddress 0) n).map f) =
      .next (f ((List.range n).map fun k => s.byteAt (s.I.toNat + k))).advance := by
  rw [effectiveAddress_eq, Nat.add_zero, readRun_ok s (.inr h)]
  rfl

theorem finishAccess_readRun_outside {o : Word} {s : State} {n : Nat} {f : List Byte → State} (hn : 0 < n)
    (h : 0xFFF < s.I.toNat + (n - 1)) :
    finishAccess o s ((s.readRun (s.effectiveAddress 0) n).map f) =
      .next (faulted s .memoryOutOfRange o (lowestOutside s)) := by
  rw [effectiveAddress_eq, Nat.add_zero, readRun_error s hn h, ofNat_max_eq_lowestOutside]
  rfl

/-! ### The frame of a stored run -/

/-- A byte outside every place of the run lies before the run or behind it. -/
theorem setBytes_keepsMemory (s : State) {a : Nat} {bs : List Byte} {W : Nat → Prop}
    (hW : ∀ k, k < bs.length → W (a + k)) : keepsMemory W s (s.setBytes a bs) := by
  intro c hc
  refine setBytes_byteAt_other s a c bs ?_
  by_contra hin
  have hplace : W (a + (c - a)) := hW (c - a) (by omega)
  rw [Nat.add_sub_cancel' (by omega)] at hplace
  exact hc hplace

theorem setBytes_advance_onlyMemory (s : State) {a : Nat} {bs : List Byte} {W : Nat → Prop}
    (hW : ∀ k, k < bs.length → W (a + k)) : onlyMemory W s (s.setBytes a bs).advance := by
  have hmem : keepsMemory W s (s.setBytes a bs) := setBytes_keepsMemory s hW
  rw [setBytes_eq] at hmem ⊢
  exact ⟨fun _ => rfl, rfl, ⟨rfl, rfl⟩, ⟨rfl, rfl⟩, ⟨rfl, rfl⟩, hmem, ⟨rfl, rfl, rfl, rfl, rfl, rfl⟩, rfl⟩

@[simp] theorem setBytes_pc (s : State) (a : Nat) (bs : List Byte) : (s.setBytes a bs).pc = s.pc := by
  rw [setBytes_eq]

@[simp] theorem setBytes_I (s : State) (a : Nat) (bs : List Byte) : (s.setBytes a bs).I = s.I := by
  rw [setBytes_eq]

/-! ### `FX33` -/

theorem exec_ldB_inside {x : Reg} {s : State} (h : s.I.toNat ≤ 0xFFD) :
    exec (.ldB x) s = .next (s.setBytes s.I.toNat (decimalDigits (s.reg x))).advance :=
  finishAccess_writeRun_inside (bs := decimalDigits (s.reg x)) (Nat.add_le_add_right h 2)

theorem exec_ldB_outside {x : Reg} {s : State} (h : 0xFFD < s.I.toNat) :
    exec (.ldB x) s = .next (faulted s .memoryOutOfRange (encode (.ldB x)) (lowestOutside s)) :=
  finishAccess_writeRun_outside (bs := decimalDigits (s.reg x)) (Nat.succ_pos 2) (Nat.add_lt_add_right h 2)

/-- Digit `k`, hundreds first, stands at `I + k`. -/
theorem setBytes_decimalDigits_byteAt {s : State} (hs : s.memoryCanonical) (h : s.I.toNat ≤ 0xFFD) (v : Byte) (k : Nat)
    (hk : k < 3) : (s.setBytes s.I.toNat (decimalDigits v)).byteAt (s.I.toNat + k) = (decimalDigits v)[k]'hk :=
  setBytes_byteAt_same s _ k (decimalDigits v) (Nat.add_le_add_right h 3) hs hk

/-- Settles O50: the stored run is the list of the three digits. -/
theorem decimalStoreWritesThreeDigits : Obligations.DecimalStoreWritesThreeDigits := by
  intro x s hs
  refine ⟨encodeXF_masked 0xF x 0x33, fun h => ?_, exec_ldB_outside⟩
  have hdigit := setBytes_decimalDigits_byteAt hs h (s.reg x)
  refine ⟨_, exec_ldB_inside h, ?_, ?_, ?_, ?_, setBytes_advance_onlyMemory s fun k hk => ⟨k, hk, rfl⟩⟩
  · rw [advance_byteAt, effectiveAddress_eq, hdigit 0 (by decide)]
    exact BitVec.toNat_udiv
  · rw [advance_byteAt, effectiveAddress_eq, hdigit 1 (by decide)]
    exact BitVec.toNat_umod.trans (congrArg (· % 10) BitVec.toNat_udiv)
  · rw [advance_byteAt, effectiveAddress_eq, hdigit 2 (by decide)]
    exact BitVec.toNat_umod
  · rw [advance_pc, setBytes_pc]

/-! ### `FX55` -/

theorem exec_stRegs_outside {x : Reg} {s : State} (h : 0xFFF < s.I.toNat + x.val) :
    exec (.stRegs x) s = .next (faulted s .memoryOutOfRange (encode (.stRegs x)) (lowestOutside s)) :=
  finishAccess_writeRun_outside (bs := s.regRun x) (by simp) (by simpa using h)

/-- Settles O51: the stored run is the list of the registers. -/
theorem registerStoreWritesTheRun : Obligations.RegisterStoreWritesTheRun := by
  intro x s hs
  refine ⟨encodeXF_masked 0xF x 0x55, fun h => ?_, exec_stRegs_outside⟩
  refine ⟨_, exec_stRegs_inside h, fun r hr => setBytes_regRun_byteAt hs h hr, ?_,
    setBytes_advance_onlyMemory s fun k hk => ⟨k, ?_, rfl⟩⟩
  · rw [advance_pc, setBytes_pc]
  · rw [regRun_length] at hk
    exact Nat.le_of_lt_succ hk

/-! ### `FX65` -/

/-- Loading a run changes registers of the run and nothing else but `pc`. -/
theorem setRegRun_advance_onlyRegs (s : State) {bs : List Byte} {W : Reg → Prop} (hW : ∀ r : Reg, r.val < bs.length → W r) :
    onlyRegs W s (s.setRegRun bs).advance := by
  have hregs : keepsRegs W s (s.setRegRun bs) := keepsRegs_setRegRun (fun _ _ => rfl) hW
  obtain ⟨V, hV⟩ : ∃ V, s.setRegRun bs = { s with V := V } := ⟨_, rfl⟩
  rw [hV] at hregs ⊢
  exact ⟨hregs, rfl, ⟨rfl, rfl⟩, ⟨rfl, rfl⟩, ⟨rfl, rfl⟩, fun _ => rfl, ⟨rfl, rfl, rfl, rfl, rfl, rfl⟩, rfl⟩

/-- `FX65` inside the array: the run replaces the registers up to `X` (R147). -/
theorem exec_ldRegs_inside {x : Reg} {s : State} (h : s.I.toNat + x.val ≤ 0xFFF) :
    ∃ t, exec (.ldRegs x) s = .next t ∧
      (∀ r : Reg, t.reg r = if r ≤ x then s.byteAt (s.effectiveAddress r.val) else s.reg r) ∧ t.pc = s.pc + 2 ∧
      onlyRegs (fun r => r ≤ x) s t := by
  refine ⟨_, finishAccess_readRun_inside h, fun r => ?_, rfl, setRegRun_advance_onlyRegs s fun r hr => ?_⟩
  · rw [advance_reg, setRegRun_reg, readRun_getElem?, effectiveAddress_eq]
    simp only [Fin.le_def, Nat.lt_succ_iff]
    split <;> rfl
  · rw [List.length_map, List.length_range] at hr
    exact Nat.le_of_lt_succ hr

theorem exec_ldRegs_outside {x : Reg} {s : State} (h : 0xFFF < s.I.toNat + x.val) :
    exec (.ldRegs x) s = .next (faulted s .memoryOutOfRange (encode (.ldRegs x)) (lowestOutside s)) :=
  finishAccess_readRun_outside (Nat.succ_pos x.val) h

/-- Settles O52. -/
theorem registerLoadReadsTheRun : Obligations.RegisterLoadReadsTheRun := by
  intro x s
  refine ⟨encodeXF_masked 0xF x 0x65, fun h => ?_, exec_ldRegs_outside⟩
  obtain ⟨t, hexec, hreg, hrest⟩ := exec_ldRegs_inside h
  exact ⟨t, hexec, fun r hr => by rw [hreg, if_pos hr], hrest⟩

/-- Settles O53 (S8): `FX55` keeps `I`, so `FX65` reads the run back from where it was stored. -/
theorem storeThenLoadRestoresTheRegisters : Obligations.StoreThenLoadRestoresTheRegisters := by
  intro x s hs h
  refine ⟨_, exec_stRegs_inside h, fun V => ?_⟩
  have hI : (s.setBytes s.I.toNat (s.regRun x)).I = s.I := setBytes_I s _ _
  obtain ⟨u, hexec, hreg, -, -, hIu, -⟩ :=
    exec_ldRegs_inside (x := x) (s := { (s.setBytes s.I.toNat (s.regRun x)).advance with V := V }) (by simpa using h)
  refine ⟨u, hexec, fun r => ?_, hIu.trans hI⟩
  rw [hreg]
  split
  · next hr =>
    rw [effectiveAddress_eq, advance_I, hI]
    exact setBytes_regRun_byteAt hs h hr
  · rfl

end Sys2Proof.Machine

/-! PROOFS. The obligations of spec/44_display.md: the frame of the two drawing instructions, the pixels that a sprite lands on, and what a
first and a second draw of it do to them. -/

namespace Sys2Proof.Machine

/-! ### The frame of the drawing instructions -/

/-- Replacing the frame after a write of registers leaves the frame condition of the drawing instructions. -/
theorem setFrame_onlyDisplay {W : Reg → Prop} {s u : State} (h : onlyRegs W s u) (f : Frame) :
    onlyDisplay W s (u.setFrame f) := by
  obtain ⟨hregs, hI, hstack, htimers, -, hmem, hcontrol, hdraws⟩ := h
  exact ⟨hregs, hI, hstack, htimers, hmem, hcontrol, hdraws⟩

theorem setFlag_setFrame_advance_onlyDisplay (s : State) (b : Bool) (f : Frame) :
    onlyDisplay (fun r => r = regF) s ((s.setFlag b).setFrame f).advance :=
  setFrame_onlyDisplay (setReg_advance_onlyRegs s regF (flagByte b)) f

/-! ### `00E0` -/

theorem blankFrame_pixel (y x : Nat) : blankFrame.pixel y x = false := by
  simp [Frame.pixel, blankFrame]

theorem exec_cls (s : State) : exec .cls s = .next (s.setFrame blankFrame).advance := rfl

/-- Settles O54. -/
theorem clearBlanksEveryPixel : Obligations.ClearBlanksEveryPixel := fun s =>
  ⟨rfl, _, exec_cls s, fun y x _ _ => blankFrame_pixel y x, rfl, rfl, setFrame_onlyDisplay (setPc_onlyPc s _) blankFrame⟩

/-! ### `DXYN` -/

theorem flagByte_eq_one_iff (b : Bool) : flagByte b = 1 ↔ b = true := by
  cases b <;> decide

theorem flagByte_eq_zero_or_one (b : Bool) : flagByte b = 0 ∨ flagByte b = 1 := by
  cases b
  · exact .inl rfl
  · exact .inr rfl

/-- The bits of the `n` bytes read from `I` on, drawn from `(y0, x0)`, are the sprite bits of R161. -/
theorem readRun_bit_eq_spriteBit (s : State) (n y0 x0 y x : Nat) :
    (decide (y0 ≤ y) && decide (x0 ≤ x) && decide (x < x0 + 8) &&
      ((((List.range n).map fun k => s.byteAt (s.I.toNat + k))[y - y0]?).getD 0).getLsbD (7 - (x - x0))) =
    spriteBit s n y0 x0 y x := by
  rw [readRun_getElem?, spriteBit, effectiveAddress_eq]
  by_cases hy : y0 ≤ y
  · have hrow : y - y0 < n ↔ y < y0 + n := Nat.sub_lt_iff_lt_add' hy
    by_cases hn : y < y0 + n
    · simp [hy, hn, hrow.mpr hn]
    · simp [hn, mt hrow.mp hn]
  · simp [hy]

/-- A `DXYN` that completes: its blit flips the pixels that a sprite bit lands on, and `VF` takes the blit's collision flag. -/
theorem exec_drw_inside {x y : Reg} {n : Nibble} {s : State} (h : n = 0 ∨ s.I.toNat + n.toNat - 1 ≤ 0xFFF) :
    ∃ p : Blit, Blit.drew s.fb false (spriteBit s n.toNat ((s.reg y).toNat % 32) ((s.reg x).toNat % 64)) p ∧
      exec (.drw x y n) s = .next ((s.setFlag p.collision).setFrame p.frame).advance := by
  have hrange : n.toNat = 0 ∨ s.I.toNat + (n.toNat - 1) ≤ 0xFFF := by
    obtain rfl | h := h
    · exact .inl rfl
    · omega
  obtain ⟨p, hp, hdraw⟩ := drawSprite_eq x y s ((List.range n.toNat).map fun k => s.byteAt (s.I.toNat + k))
  refine ⟨p, ?_, ?_⟩
  · rw [hp]
    refine Blit.drew_congr (fun py px => ?_) (Blit.drew_rows _ _ _ (Blit.drew_nothing _) fun _ _ _ => rfl)
    rw [Bool.false_or, readRun_bit_eq_spriteBit]
  · rw [← hdraw, exec, execDrw, effectiveAddress_eq, Nat.add_zero, readRun_ok s hrange]
    rfl

theorem exec_drw_outside {x y : Reg} {n : Nibble} {s : State} (hn : 0 < n.toNat)
    (h : 0xFFF < s.I.toNat + n.toNat - 1) :
    exec (.drw x y n) s = .next (faulted s .memoryOutOfRange (encode (.drw x y n)) (lowestOutside s)) :=
  finishAccess_readRun_outside hn (by omega)

theorem setFlag_setFrame_advance_reg_regF (s : State) (b : Bool) (f : Frame) :
    ((s.setFlag b).setFrame f).advance.reg regF = flagByte b := by
  rw [advance_reg, setFrame_reg, setFlag_reg_same]

/-- Settles O55: the clipped sprite is the set of pixels that the blit flips. -/
theorem drawXorsTheClippedSprite : Obligations.DrawXorsTheClippedSprite := by
  intro x y n s
  refine ⟨encodeXYN_masked 0xD x y n, fun h => ?_, exec_drw_outside⟩
  obtain ⟨p, ⟨hpixel, hcollision⟩, hexec⟩ := exec_drw_inside (x := x) (y := y) h
  refine ⟨_, hexec, hpixel, ?_, ?_, rfl, rfl, setFlag_setFrame_advance_onlyDisplay s _ _⟩
  · rw [setFlag_setFrame_advance_reg_regF]
    exact flagByte_eq_zero_or_one p.collision
  · rw [setFlag_setFrame_advance_reg_regF, flagByte_eq_one_iff, hcollision]
    simp only [Bool.false_eq_true, false_or]

/-! ### The same sprite twice -/

theorem Frame.ext_pixel {f g : Frame} (h : ∀ y x, y < 32 → x < 64 → f.pixel y x = g.pixel y x) : f = g := by
  refine Vector.ext fun y hy => Vector.ext fun x hx => ?_
  rw [← Frame.pixel_eq f hy hx, ← Frame.pixel_eq g hy hx]
  exact h y x hy hx

/-- Flipping the same pixels again undoes the flip; what the second draw meets is what the first one turned on. -/
theorem Blit.drew_twice {f : Frame} {W : Nat → Nat → Bool} {p q : Blit} (hp : Blit.drew f false W p)
    (hq : Blit.drew p.frame false W q) :
    q.frame = f ∧
      (q.collision = true ↔ ∃ y x, y < 32 ∧ x < 64 ∧ f.pixel y x = false ∧ W y x = true) := by
  obtain ⟨hp, -⟩ := hp
  obtain ⟨hq, hcollision⟩ := hq
  constructor
  · refine Frame.ext_pixel fun y x hy hx => ?_
    rw [hq y x hy hx, hp y x hy hx, Bool.xor_assoc, Bool.xor_self, Bool.xor_false]
  · have hmet : ∀ y x, y < 32 → x < 64 →
        (W y x = true ∧ p.frame.pixel y x = true ↔ f.pixel y x = false ∧ W y x = true) := by
      intro y x hy hx
      rw [hp y x hy hx]
      cases W y x <;> simp
    rw [hcollision]
    simp only [Bool.false_eq_true, false_or]
    refine exists_congr fun y => exists_congr fun x => ?_
    exact and_congr_right fun hy => and_congr_right fun hx => hmet y x hy hx

/-- The sprite bits depend on `I` and on memory only. -/
theorem spriteBit_congr {s m : State} (hI : m.I = s.I) (hmem : keepsAllMemory s m) (n y0 x0 : Nat) :
    spriteBit m n y0 x0 = spriteBit s n y0 x0 := by
  funext y x
  rw [spriteBit, spriteBit, effectiveAddress_eq, effectiveAddress_eq, hI, hmem]

/-- Settles O56 (S5): the second blit starts from the frame of the first and has the same sprite bits. -/
theorem drawingTwiceRestoresTheFrame : Obligations.DrawingTwiceRestoresTheFrame := by
  intro x y n s h
  obtain ⟨p, hp, hexec⟩ := exec_drw_inside (x := x) (y := y) h
  refine ⟨_, hexec, fun m hfb hI hmem hx hy => ?_⟩
  obtain ⟨q, hq, hexec'⟩ := exec_drw_inside (x := x) (y := y) (s := m) (by rwa [hI])
  rw [hx, hy, spriteBit_congr hI hmem, hfb] at hq
  obtain ⟨hrestored, hmet⟩ := Blit.drew_twice hp hq
  refine ⟨_, hexec', hrestored, ?_⟩
  rw [setFlag_setFrame_advance_reg_regF, flagByte_eq_one_iff, hmet]

end Sys2Proof.Machine

/-! PROOFS. The obligations of spec/45_keypad_timers.md about the keypad: what a keypad skip and a key wait answer, said once per case. -/

namespace Sys2Proof.Machine

/-! ### `FX0A` -/

/-- A key wait that no key ends writes back the `pc` it found, which is no change. -/
theorem exec_ldVxK_blocked (x : Reg) {s : State} (h : ∀ k, s.keyAt k = false) : exec (.ldVxK x) s = .next s := by
  rw [exec, execLdVxK, firstKey_none.mpr h]
  rfl

theorem exec_ldVxK_of_firstKey (x : Reg) {s : State} {k : Fin 16} (h : s.firstKey = some k) :
    exec (.ldVxK x) s = .next (s.setReg x (BitVec.ofNat 8 k.val)).advance := by
  rw [exec, execLdVxK, h]

/-- A key index fits a register byte. -/
theorem ofNat_keyIndex_toNat (k : Fin 16) : (BitVec.ofNat 8 k.val).toNat = k.val :=
  Nat.mod_eq_of_lt (by omega)

/-- Settles O58: the least pressed key is the one that the search finds. -/
theorem keyWaitRepeatsUntilAKeyIsPressed : Obligations.KeyWaitRepeatsUntilAKeyIsPressed := by
  intro x s
  refine ⟨encodeXF_masked 0xF x 0x0A, exec_ldVxK_blocked x, fun k hk hleast => ?_⟩
  refine ⟨_, exec_ldVxK_of_firstKey x (firstKey_of_least hk hleast), ?_, rfl, setReg_advance_onlyRegs s x _⟩
  rw [advance_reg, setReg_reg_same, ofNat_keyIndex_toNat]

/-! ### `EX9E` and `EXA1` -/

theorem skipOnKey_of_key (o : Word) {x : Reg} (b : Bool) {s : State} {k : Fin 16} (h : (s.reg x).toNat = k.val) :
    skipOnKey o x b s = .next (s.skipIf (s.keyAt k == b)) := by
  have hlt : (s.reg x).toNat < 16 := h ▸ k.isLt
  have hk : k = ⟨(s.reg x).toNat, hlt⟩ := Fin.ext h.symm
  rw [skipOnKey, keyIndex_of_lt hlt, hk]

theorem skipOnKey_of_no_key (o : Word) {x : Reg} (b : Bool) {s : State} (h : 15 < (s.reg x).toNat) :
    skipOnKey o x b s = .next (faulted s .keyIndexOutOfRange o (zextByte (s.reg x))) := by
  rw [skipOnKey, keyIndex_of_le h]
  rfl

/-- Settles O57: both skips are `skipOnKey`, which compares the level of the key with 1 or with 0. -/
theorem keypadSkipsTestTheKeyNamedByVX : Obligations.KeypadSkipsTestTheKeyNamedByVX := fun x _ =>
  ⟨encodeXF_masked 0xE x 0x9E, encodeXF_masked 0xE x 0xA1,
    fun _ hk => ⟨exec_skips_of_iff (skipOnKey_of_key _ true hk) beq_iff_eq,
      exec_skips_of_iff (skipOnKey_of_key _ false hk) beq_iff_eq⟩,
    fun h => ⟨skipOnKey_of_no_key _ true h, skipOnKey_of_no_key _ false h⟩⟩

end Sys2Proof.Machine

/-! PROOFS. The obligations of spec/60_exceptions.md: an executed cycle answers as the table of R190 says, and a halted core stays as
it is. -/

namespace Sys2Proof.Machine

/-! ### Fetch and decode faults -/

theorem fetchDecode_unfetched {s : State} {info : Word} (h : s.fetchWord = .error info) :
    fetchDecode s = .error (takeFault .memoryOutOfRange 0 info s) := by
  simp only [fetchDecode, h]

theorem fetchDecode_unknown {s : State} {w : Word} {e : DecodeError} (hw : s.fetchWord = .ok w)
    (hd : decodeWord w = .error e) : fetchDecode s = .error (takeFault .unknownInstruction w 0 s) := by
  simp only [fetchDecode, hw, hd]

/-- Settles O15: the decoder rejects what no row of the map selects (`dispatchSelectsTheUniqueRow`). -/
theorem unknownWordHaltsNamingTheWord : Obligations.UnknownWordHaltsNamingTheWord := by
  intro s w hl hh hw hnone
  obtain ⟨-, -, hreject⟩ := dispatchSelectsTheUniqueRow w
  exact step_of_fetchDecode_error ((runnable_iff s).mpr ⟨hl, hh⟩) (fetchDecode_unknown (s := beginCycle s) hw (hreject hnone))

/-! ### The table of R190 -/

/-- What a row of R190's table asks of an answer from `s`: the listed fault, taken at `s`, or no fault at all. -/
def followsTable (row : Option (FaultCode × Word × Word)) (s : State) (r : Result) : Prop :=
  (∃ c o n, row = some (c, o, n) ∧ c ≠ .noFault ∧ r = .next (faulted s c o n)) ∨
    (row = none ∧ ∃ t, r = .next t ∧ t.halted = s.halted ∧ t.fault = s.fault)

/-- A row with a condition. -/
theorem followsTable_ite {p : Prop} [Decidable p] {s : State} {r : Result} {c : FaultCode} {o n : Word} (hc : c ≠ .noFault)
    (hfault : p → r = .next (faulted s c o n))
    (hpass : ¬ p → ∃ t, r = .next t ∧ t.halted = s.halted ∧ t.fault = s.fault) :
    followsTable (if p then some (c, o, n) else none) s r := by
  by_cases hp : p
  · exact .inl ⟨c, o, n, if_pos hp, hc, hfault hp⟩
  · exact .inr ⟨if_neg hp, hpass hp⟩

theorem listedFault_of_pc_outside {s : State} (h : 0xFFE < s.pc.toNat) :
    listedFault s = some (.memoryOutOfRange, 0, if 0xFFF < s.pc.toNat then s.pc else s.pc + 1) :=
  if_pos h

theorem listedFault_of_unknown {s : State} {w : Word} {e : DecodeError} (hw : s.fetchWord = .ok w)
    (hd : decodeWord w = .error e) : listedFault s = some (.unknownInstruction, w, 0) := by
  have hpc : s.pc.toNat ≤ 0xFFE := pc_le_of_fetchWord hw
  rw [fetchWord_ok hpc, Except.ok.injEq] at hw
  simp only [listedFault, if_neg (Nat.not_lt.mpr hpc), hw, hd]

/-- Storing bytes neither halts the core nor touches the record. -/
theorem setBytes_halted_fault (s : State) (a : Nat) (bs : List Byte) :
    (s.setBytes a bs).halted = s.halted ∧ (s.setBytes a bs).fault = s.fault := by
  rw [setBytes_eq]
  exact ⟨rfl, rfl⟩

theorem skipOnKey_followsTable (o : Word) (x : Reg) (b : Bool) (s : State) :
    followsTable (if 15 < (s.reg x).toNat then some (.keyIndexOutOfRange, o, zextByte (s.reg x)) else none) s
      (skipOnKey o x b s) :=
  followsTable_ite (by decide) (skipOnKey_of_no_key o b) fun h =>
    ⟨_, skipOnKey_of_key (k := ⟨(s.reg x).toNat, by omega⟩) o b rfl, rfl, rfl⟩

/-- A fetched instruction answers as its own row of the table says. -/
theorem exec_followsTable {i : Instr} {s : State} (hw : s.fetchWord = .ok (encode i)) :
    followsTable (listedFault s) s (exec i s) := by
  have hpc : s.pc.toNat ≤ 0xFFE := pc_le_of_fetchWord hw
  rw [fetchWord_ok hpc, Except.ok.injEq] at hw
  simp only [listedFault, if_neg (Nat.not_lt.mpr hpc), hw, decodeWord_encode]
  cases i with
  | ret =>
    refine followsTable_ite (by decide) exec_ret_of_empty fun h => ?_
    exact ⟨_, exec_ret_of_top (k := ⟨s.sp.val - 1, by omega⟩) (Nat.sub_add_cancel (Nat.pos_of_ne_zero h)), rfl, rfl⟩
  | call nnn =>
    exact followsTable_ite (by decide) (exec_call_of_full nnn) fun h => ⟨_, exec_call_of_room nnn (by omega), rfl, rfl⟩
  | drw x y n =>
    refine followsTable_ite (by decide) (fun ⟨hn, hI⟩ => exec_drw_outside hn hI) fun h => ?_
    have hin : n.toNat = 0 ∨ s.I.toNat + n.toNat - 1 ≤ 0xFFF := by omega
    obtain ⟨p, -, hexec⟩ := exec_drw_inside (x := x) (y := y) (hin.imp_left BitVec.eq_of_toNat_eq)
    exact ⟨_, hexec, rfl, rfl⟩
  | ldB x =>
    refine followsTable_ite (by decide) (fun ⟨_, hI⟩ => exec_ldB_outside (by omega)) fun h => ?_
    exact ⟨_, exec_ldB_inside (by omega), setBytes_halted_fault s _ _⟩
  | stRegs x =>
    refine followsTable_ite (by decide) (fun ⟨_, hI⟩ => exec_stRegs_outside (by omega)) fun h => ?_
    exact ⟨_, exec_stRegs_inside (by omega), setBytes_halted_fault s _ _⟩
  | ldRegs x =>
    refine followsTable_ite (by decide) (fun ⟨_, hI⟩ => exec_ldRegs_outside (by omega)) fun h => ?_
    exact ⟨_, finishAccess_readRun_inside (by omega), rfl, rfl⟩
  | skp x => exact skipOnKey_followsTable _ x true s
  | sknp x => exact skipOnKey_followsTable _ x false s
  | ldVxK x =>
    cases hk : s.firstKey with
    | none => exact .inr ⟨rfl, _, exec_ldVxK_blocked x (firstKey_none.mp hk), rfl, rfl⟩
    | some k => exact .inr ⟨rfl, _, exec_ldVxK_of_firstKey x hk, rfl, rfl⟩
  | _ => exact .inr ⟨rfl, _, rfl, rfl, rfl⟩

theorem finishCycle_fault (s : State) : (finishCycle s).fault = s.fault := by
  obtain h | h := finishCycle_cases s <;> rw [h]
  rfl

/-- An executed cycle answers as the table says, in the order of R197: fetch, decode, execute. -/
theorem step_followsTable {s : State} (hr : runnable s = true) : followsTable (listedFault s) (beginCycle s) (step s) := by
  cases hw : s.fetchWord with
  | error info =>
    have hpc : 0xFFE < s.pc.toNat := Nat.lt_of_not_le fun h => by simp [fetchWord_ok h] at hw
    obtain ⟨-, hinfo⟩ := fetchIsBigEndianAndRangeChecked s
    exact .inl ⟨_, _, _, listedFault_of_pc_outside hpc, by decide,
      step_of_fetchDecode_error hr (fetchDecode_unfetched (s := beginCycle s) (hinfo hpc))⟩
  | ok w =>
    cases hd : decodeWord w with
    | error e =>
      exact .inl ⟨_, _, _, listedFault_of_unknown hw hd, by decide,
        step_of_fetchDecode_error hr (fetchDecode_unknown (s := beginCycle s) hw hd)⟩
    | ok i =>
      have hf : fetchDecode (beginCycle s) = .ok i := fetchDecode_ok hw hd
      obtain rfl := encode_of_decodeWord hd
      obtain ⟨c, o, n, hrow, hc, hu⟩ | ⟨hrow, u, hu, hhalt, hrec⟩ := exec_followsTable (s := beginCycle s) hw
      · exact .inl ⟨c, o, n, hrow, hc, step_of_exec hr hf hu⟩
      · exact .inr ⟨hrow, _, step_of_exec hr hf hu, (finishCycle_halted u).trans hhalt, (finishCycle_fault u).trans hrec⟩

/-- Settles O22. -/
theorem faultsAreExactlyTheListedOnes : Obligations.FaultsAreExactlyTheListedOnes := by
  intro s hl hh
  obtain ⟨c, o, n, hrow, -, ht⟩ | ⟨hrow, t, ht, hhalt, hrec⟩ := step_followsTable ((runnable_iff s).mpr ⟨hl, hh⟩) <;>
    rw [hrow]
  · exact ⟨_, ht, rfl⟩
  · exact ⟨t, ht, hhalt.trans hh, hrec⟩

/-! ### The halted state -/

theorem step_of_halted {s : State} (h : s.halted = true) : step s = .next (noopCycle s) :=
  step_of_not_runnable (by simp [runnable, h])

/-- Settles O21: only a listed fault ends a cycle halted, and the state after it is a fixed point of `step`. -/
theorem faultEntryIsPrecise : Obligations.FaultEntryIsPrecise := by
  intro s t hl hh hstep ht
  obtain ⟨c, o, n, hrow, hc, hfault⟩ | ⟨-, u, hu, hhalt, -⟩ := step_followsTable ((runnable_iff s).mpr ⟨hl, hh⟩)
  · obtain rfl := next_inj hstep hfault
    exact ⟨rfl, ⟨c, o, n, hrow, hc, rfl⟩, step_of_halted rfl⟩
  · obtain rfl := next_inj hstep hu
    rw [hhalt, beginCycle_halted, hh] at ht
    cases ht

theorem run_succ_of_step {M : Host.Core} {s t : M.State} (h : M.step s = .next t) (n : Nat) : M.run (n + 1) s = M.run n t := by
  rw [Host.Core.run, h]

/-- A run of a halted core is one no-op cycle, whatever its length (R32). -/
theorem run_of_halted {s : State} (h : s.halted = true) (n : Nat) :
    Sys2Proof.core.run (n + 1) s = .next (noopCycle s) := by
  induction n generalizing s with
  | zero => exact run_succ_of_step (M := Sys2Proof.core) (step_of_halted h) 0
  | succ n ih => exact (run_succ_of_step (M := Sys2Proof.core) (step_of_halted h) (n + 1)).trans (ih (s := noopCycle s) h)

theorem load_halted_fault (bytes : List Byte) (s : State) :
    (load bytes s).1.halted = s.halted ∧ (load bytes s).1.fault = s.fault := by
  obtain h | ⟨-, h⟩ := load_cases bytes s <;> rw [h]
  · exact ⟨rfl, rfl⟩
  · exact setBytes_halted_fault s _ bytes

/-- No transaction but `INIT` writes `halted` or the record of a halted core (R199). -/
theorem transact_of_halted {x : Transaction} {s t : State} {r : Response} (hs : s.halted = true) (hx : x ≠ .init)
    (h : transact x s = .next (t, r)) : t.halted = s.halted ∧ t.fault = s.fault := by
  cases x with
  | init => exact absurd rfl hx
  | load bytes =>
    obtain rfl : (load bytes s).1 = t := by
      rw [transact, Host.Outcome.next.injEq] at h
      rw [h]
    exact load_halted_fault bytes s
  | cycle =>
    simp only [transact, step_of_halted hs] at h
    cases h
    exact ⟨rfl, rfl⟩
  | keyWrite | fbRead | statusRead =>
    cases h
    exact ⟨rfl, rfl⟩

/-- Settles O23. -/
theorem onlyInitLeavesTheHaltedState : Obligations.OnlyInitLeavesTheHaltedState := by
  intro s hs
  refine ⟨run_of_halted hs, fun x t r hx h => ?_, rfl, rfl⟩
  obtain ⟨hhalt, hrec⟩ := transact_of_halted hs hx h
  exact ⟨hhalt.trans hs, hrec⟩

end Sys2Proof.Machine

/-! PROOFS. The obligations of spec/70_reset_and_hazards.md about `LOAD`: its two answers, said once each, and what an accepted image leaves
in memory and in the rest of the state. -/

namespace Sys2Proof.Machine

/-! ### The two answers of `LOAD` -/

/-- The program area ends with the array: 0x200 + 3584 = 4096 (R42). -/
theorem progBase_add_le_memSize {n : Nat} (h : n ≤ Config.maxRom) : Config.progBase + n ≤ Config.memSize := by
  simp only [Config.progBase, Config.maxRom, Config.memSize] at h ⊢
  omega

theorem load_of_fits {bytes : List Byte} (s : State) (h : bytes.length ≤ Config.maxRom) :
    load bytes s = ({ s.setBytes Config.progBase bytes with loaded := true }, .ok) :=
  if_pos (decide_eq_true h)

theorem load_of_oversized {bytes : List Byte} (s : State) (h : Config.maxRom < bytes.length) :
    load bytes s = (s, .loadTooLarge) :=
  if_neg (by simpa [imageWellFormed] using h)

theorem transact_load (bytes : List Byte) (s : State) : transact (.load bytes) s = .next (load bytes s) := rfl

/-! ### What an accepted image leaves -/

@[simp] theorem with_loaded_byteAt (s : State) (b : Bool) (a : Nat) : ({ s with loaded := b } : State).byteAt a = s.byteAt a := rfl

/-- With memory and `loaded` put back, the state before the store (R223). -/
theorem setBytes_with_loaded_restored (s : State) (a : Nat) (bs : List Byte) (b : Bool) :
    { { s.setBytes a bs with loaded := b } with mem := s.mem, loaded := s.loaded } = s := by
  rw [setBytes_eq]

/-- Settles O8: an accepted `LOAD` is one store of the image at 0x200, which fits the array, and the setting of `loaded`. -/
theorem loadStoresTheImageAndNothingElse : Obligations.LoadStoresTheImageAndNothingElse := by
  intro s bytes hs hlen
  have hanswer : transact (.load bytes) s = .next ({ s.setBytes Config.progBase bytes with loaded := true }, .ok) := by
    rw [transact_load, load_of_fits s hlen]
  refine ⟨_, hanswer, rfl, fun k hk => ?_, fun a ha => ?_, setBytes_with_loaded_restored s _ bytes true⟩
  · rw [with_loaded_byteAt]
    exact setBytes_byteAt_same s Config.progBase k bytes (progBase_add_le_memSize hlen) hs hk
  · rw [with_loaded_byteAt]
    exact setBytes_byteAt_other s Config.progBase a bytes ha

/-- Settles O9. -/
theorem oversizedLoadIsRejectedWhole : Obligations.OversizedLoadIsRejectedWhole := by
  intro s bytes hlen
  rw [transact_load, load_of_oversized s hlen]

end Sys2Proof.Machine
